-- ==== Sys2Proof/Word.lean ====
section
/-! DEFINITION. The word types of GF8CORE and the 256-entry arrays (00_scope.md R8, R10; 10_state.md R35). -/

namespace Sys2Proof

/-- A field element or operand byte: "an 8-bit unsigned value" (00_scope.md R10). -/
abbrev Byte := BitVec 8

/-- A register or column word: 32 bits (00_scope.md R6, R10). -/
abbrev Word := BitVec 32

/-- A byte offset inside the 4096-byte register window (20_memory.md R41, R45). -/
abbrev Offset := BitVec 12

/-- The byte values 0, 1, ..., 255 in increasing order. -/
def allBytes : List Byte := (List.range 256).map (BitVec.ofNat 8)

/-- An array with one entry for each byte value. -/
abbrev Indexed (α : Type) := Vector α 256

/-- The array whose entry x is `f x`. -/
def Indexed.tabulate {α : Type} (f : Byte → α) : Indexed α := ⟨⟨allBytes.map f⟩, by simp [allBytes]⟩

/-- Entry x of an array, `T[x]` (00_scope.md R9). -/
def Indexed.at {α : Type} (t : Indexed α) (x : Byte) : α := t[x.toNat]'x.isLt

/-- "a storage array of 256 entries of 8 bits, indexed by byte value" (10_state.md R35). -/
abbrev Table := Indexed Byte

end Sys2Proof
end

