-- ==== Sys2Proof/Machine/Bus.lean ====
section
/-! DEFINITION. The names the machine's bus side uses: registers, access types, responses, host statements, turns. -/

namespace Sys2Proof.Machine

/-- The registers of the window's map (20_memory.md R43); `sbox k` is word k of the S-box window (R50), `reserved` any offset
the map reserves (R44). -/
inductive Reg where
  | id | ctrl | status | cmd | opa | opb | res0 | res1 | mod | seed | amat0 | amat1 | sconst
  | metBij | metNl | metSac | metDu | metLb | metDeg | metFp
  | sbox (k : Fin 64)
  | reserved
  deriving DecidableEq, Repr

/-- How a register answers a write (10_state.md R15; 20_memory.md R43, column `type`). RW and W1 occur only among CTRL's
fields, and CTRL is `ctrl`. -/
inductive WriteAccess where
  | ignored   -- RO, ROU, RAZ
  | rwb
  | rwl
  | ctrl
  | command
  deriving DecidableEq, Repr

/-- `resp ∈ {OKAY, ERROR}` (20_memory.md R45). -/
inductive Resp where
  | okay
  | error
  deriving DecidableEq, Repr

/-- The engine's state, a function of STATUS (10_state.md R14). -/
inductive EngineState where
  | idle
  | busy
  | halted
  deriving DecidableEq, Repr

/-- The operand forms (30_encoding.md R60). -/
inductive Form where
  | n
  | b
  | bb
  | w
  deriving DecidableEq, Repr

/-- The STATUS.ERR codes that are ever produced (60_exceptions.md R137). -/
inductive ErrCode where
  | none
  | illegal
  | operand
  | noconst
  | noinv
  | diverge
  deriving DecidableEq, Repr

/-- A statement of the host notation (30_encoding.md R65). `read off n` and `write off n wdata` are the bus transactions
`MemRead(BASE+off, n)` and `MemWrite(BASE+off, n, wdata)` (20_memory.md R45), of any size n and at any offset. -/
inductive HostStmt where
  | read (off : Offset) (n : Nat)
  | write (off : Offset) (n : Nat) (wdata : Word)
  | poll
  | waitIrq
  deriving DecidableEq, Repr

/-- Which agent moves: the engine, the host (20_memory.md R51), or the platform asserting `rst` (70_reset_and_hazards.md
R152). -/
inductive Turn where
  | engine
  | host
  | rst
  deriving DecidableEq, Repr

/-- One record of a transaction trace, `W off data` or `R off` (30_encoding.md R68); a read carries the value the host read
(40_command.md R79). -/
inductive BusRecord where
  | wrote (off : Offset) (wdata : Word)
  | readBack (off : Offset) (rdata : Word)
  deriving DecidableEq, Repr

end Sys2Proof.Machine
end

