-- ==== Sys2Proof/Syntax.lean ====
section
/-! DEFINITION. The commands: one constructor per row of spec/opcode_table.json (30_encoding.md R61). -/

namespace Sys2Proof

/-- The 23 commands. The command word "carries no register number, immediate or mode field" (30_encoding.md R58), so no
constructor has an argument: a command takes its operands from OPA and OPB. -/
inductive Instr where
  | nop
  | gmul
  | ginv
  | gdbl
  | affine
  | sbuild
  | ssearch
  | slookup
  | mbij
  | mnl
  | msac
  | mdu
  | mlb
  | mdeg
  | mfp
  | mall
  | ctl2
  | ctl3
  | mixct
  | xtime4
  | rotb
  | mixbs
  | mixchk
  deriving DecidableEq, Repr

end Sys2Proof
end

