-- ==== Sys2Proof/WellFormed.lean ====
section
/-! DEFINITION. What the spec calls a legal command word and a served bus transaction. -/

namespace Sys2Proof

/-- "DefinedOpcodes is the set of OPC values in rule R61" (30_encoding.md R59, R61), as the rule's table lists them. -/
def definedOpcodes : List Byte :=
  [0x00, 0x01, 0x02, 0x03, 0x08, 0x10, 0x11, 0x12] ++ [0x20, 0x21, 0x22, 0x23, 0x24, 0x25, 0x26, 0x27] ++
    [0x30, 0x31, 0x32, 0x33, 0x34, 0x35, 0x36]

/-- `legal(w) := (w[31:8] == 0) and (w[7:0] in DefinedOpcodes)` (30_encoding.md R59). -/
def CommandWord.legal (w : Word) : Bool := w >>> 8 == 0 && definedOpcodes.contains (w.setWidth 8)

/-- Every command is well formed: no constructor of `Instr` has an operand field that could be out of range
(30_encoding.md R58). The checks of this hardware are on command words, bus transactions and host statements. -/
def Instr.wf : Instr → Bool
  | .nop | .gmul | .ginv | .gdbl | .affine | .sbuild | .ssearch | .slookup => true
  | .mbij | .mnl | .msac | .mdu | .mlb | .mdeg | .mfp | .mall => true
  | .ctl2 | .ctl3 | .mixct | .xtime4 | .rotb | .mixbs | .mixchk => true

/-- "The only size GF8CORE serves is n = 4 at an offset with `off[1:0] = 0`" (20_memory.md R45). -/
def Transaction.wf (off : Offset) (n : Nat) : Bool := n == 4 && off.toNat % 4 == 0

namespace Machine

/-- A host statement whose transaction, if it has one, is served. -/
def HostStmt.wf : HostStmt → Bool
  | .read off n => Transaction.wf off n
  | .write off n _ => Transaction.wf off n
  | .poll => true
  | .waitIrq => true

end Machine

end Sys2Proof
end

