-- ==== Sys2Proof/Decode.lean ====
section
/-! DEFINITION. Decoding and encoding of command words (30_encoding.md R58 to R64). -/

namespace Sys2Proof

/-- Why a command word is illegal (30_encoding.md R62): "every word with RSV ≠ 0, whatever its OPC", or an OPC value that is
not in rule R61. -/
inductive DecodeError where
  | reservedBits
  | undefinedOpcode
  deriving DecidableEq, Repr

/-- The command of an OPC value, from the opcode map (30_encoding.md R61). -/
def decodeOpcode (opc : Byte) : Option Instr :=
  match opc.toNat with
  | 0x00 => some .nop
  | 0x01 => some .gmul
  | 0x02 => some .ginv
  | 0x03 => some .gdbl
  | 0x08 => some .affine
  | 0x10 => some .sbuild
  | 0x11 => some .ssearch
  | 0x12 => some .slookup
  | 0x20 => some .mbij
  | 0x21 => some .mnl
  | 0x22 => some .msac
  | 0x23 => some .mdu
  | 0x24 => some .mlb
  | 0x25 => some .mdeg
  | 0x26 => some .mfp
  | 0x27 => some .mall
  | 0x30 => some .ctl2
  | 0x31 => some .ctl3
  | 0x32 => some .mixct
  | 0x33 => some .xtime4
  | 0x34 => some .rotb
  | 0x35 => some .mixbs
  | 0x36 => some .mixchk
  | _ => none

/-- The command of a command word: OPC in bits 7:0, RSV in bits 31:8, which must be 0 (30_encoding.md R58, R59). -/
def decode (w : Word) : Except DecodeError Instr :=
  if w.extractLsb' 8 24 = 0 then
    match decodeOpcode (w.extractLsb' 0 8) with
    | some i => .ok i
    | none => .error .undefinedOpcode
  else .error .reservedBits

/-- The OPC value of a command (30_encoding.md R61). -/
def opcode : Instr → Byte
  | .nop => 0x00
  | .gmul => 0x01
  | .ginv => 0x02
  | .gdbl => 0x03
  | .affine => 0x08
  | .sbuild => 0x10
  | .ssearch => 0x11
  | .slookup => 0x12
  | .mbij => 0x20
  | .mnl => 0x21
  | .msac => 0x22
  | .mdu => 0x23
  | .mlb => 0x24
  | .mdeg => 0x25
  | .mfp => 0x26
  | .mall => 0x27
  | .ctl2 => 0x30
  | .ctl3 => 0x31
  | .mixct => 0x32
  | .xtime4 => 0x33
  | .rotb => 0x34
  | .mixbs => 0x35
  | .mixchk => 0x36

/-- "Each command word is `zext_32(OPC)`" (30_encoding.md R61). -/
def encode (i : Instr) : Word := (opcode i).setWidth 32

/-- The command that the decoder reads from a table row's bits `w`: a command is "one 32-bit word written in one
transaction" (30_encoding.md R64), so the bits above nbits are 0 and a row of more than 32 bits is no command. -/
def decodeTableWord (nbits w : Nat) : Option Instr :=
  if nbits ≤ 32 then
    match decode (BitVec.ofNat 32 (w % 2 ^ nbits)) with
    | .ok i => some i
    | .error _ => none
  else none

end Sys2Proof
end

