-- ==== Sys2Proof/Config.lean ====
section
/-! DEFINITION. What the spec leaves to an implementation or to a draw (93_implementation_defined.md). None of these has a
body: nothing can be proved of their values. -/

namespace Sys2Proof

/-- The byte that draw number `draw` gives to entry `entry` of the S-box table, where the spec calls the table unspecified:
after a reset (93 U1) and after a failed SSEARCH (93 U3). "any value, drawn once … per entry". -/
opaque Config.freeByte (draw entry : Nat) : Byte

/-- The word that draw number `draw` gives to one read of an ROU register or of the S-box window while BUSY = 1 (93 U2):
"any value, drawn per read". -/
opaque Config.freeWord (draw : Nat) : Word

/-- Which 4096-byte page of the platform's address space holds the register window (93 P1, 00_scope.md R6). -/
opaque Config.basePage : Nat

/-- `BASE`, the window's base address: 4096-byte aligned (20_memory.md R41). -/
def Config.base : Nat := 4096 * Config.basePage

end Sys2Proof
end

