-- ==== Sys2Proof/Machine/State.lean ====
section
/-! DEFINITION. The state record of GF8CORE (10_state.md R39), what it is after a reset (R40), and the reasons a step stops. -/

namespace Sys2Proof.Machine

/-- "The complete architectural state of GF8CORE is the record below; nothing else is state" (10_state.md R39), followed by
the model's own fields: the schedule, the host's statements, the trace of transactions and the count of free draws. -/
structure State where
  /-- CTRL.IE (R18). -/
  ie : Bool
  /-- STATUS.BUSY (R19). -/
  busy : Bool
  /-- STATUS.DONE (R19, R20). -/
  done : Bool
  /-- STATUS.LOCK (R19, R21). -/
  lock : Bool
  /-- STATUS.HALT (R19, R22). -/
  halt : Bool
  /-- STATUS.BUSYERR (R19, R23). -/
  busyerr : Bool
  /-- STATUS.CFGERR (R19, R23). -/
  cfgerr : Bool
  /-- STATUS.ERR (R19; 60_exceptions.md R137). -/
  err : BitVec 4
  /-- CMD: the last accepted command word (R28), the pending command while BUSY = 1 (R37). -/
  cmd : Word
  /-- OPA (R29). -/
  opa : Word
  /-- OPB (R30). -/
  opb : Word
  /-- RES0 (R31). -/
  res0 : Word
  /-- RES1 (R32). -/
  res1 : Word
  /-- MOD.MLO (R24). -/
  mlo : Byte
  /-- SEED.V (R26). -/
  seed : Byte
  /-- SCONST.CONST (R33). -/
  sconst : Byte
  /-- SCONST.SVALID (R33). -/
  svalid : Bool
  /-- MET_BIJ (R34). -/
  metBij : BitVec 9
  /-- MET_NL (R34). -/
  metNl : BitVec 8
  /-- MET_SAC (R34). -/
  metSac : BitVec 15
  /-- MET_DU (R34). -/
  metDu : BitVec 9
  /-- MET_LB (R34). -/
  metLb : BitVec 8
  /-- MET_DEG (R34). -/
  metDeg : BitVec 4
  /-- MET_FP (R34). -/
  metFp : BitVec 9
  /-- The S-box table T (R35). -/
  t : Table
  /-- MODEL'S OWN: the number of free draws made so far (log entries 1 to 3). -/
  draws : Nat
  /-- MODEL'S OWN: the turns still to come (log entry 4). -/
  turns : List Turn
  /-- MODEL'S OWN: the host's statements still to run (log entry 5). -/
  host : List HostStmt
  /-- MODEL'S OWN: the served transactions so far, newest first (log entry 5). -/
  trace : List BusRecord
  deriving DecidableEq, Repr

/-- The reasons a step stops with a fault. -/
inductive Fault where
  /-- A host turn whose transaction at this offset got the response ERROR (20_memory.md R46): "A model treats ERROR as a
  fault of the host program". Raised by the host's turn only, never by a command. Safe: the block changes no state, and
  the model stops the run where a real host might go on. -/
  | busError (off : Offset)
  deriving DecidableEq, Repr

/-- The reasons a step refuses. -/
inductive Refusal where
  /-- A command that has no meaning in this model, by its mnemonic. Raised by no arm of `exec`: every command has its
  meaning. Safe. -/
  | notModelled (mnemonic : String)
  deriving DecidableEq, Repr

/-- A table of which the spec says "Each of the 256 entries is an arbitrary byte" (93 U1, U3): draw number `draw`. -/
def freeTable (draw : Nat) : Table := Indexed.tabulate fun x => Config.freeByte draw x.toNat

/-- The machine right after a reset (10_state.md R40): every field of the record at the rule's value, T unspecified (93 U1;
draw 0), and nothing scheduled. -/
def State.reset : State where
  ie := false
  busy := false
  done := false
  lock := false
  halt := false
  busyerr := false
  cfgerr := false
  err := 0
  cmd := 0
  opa := 0
  opb := 0
  res0 := 0
  res1 := 0
  mlo := 0x1B
  seed := 0xF1
  sconst := 0
  svalid := false
  metBij := 0
  metNl := 0
  metSac := 0
  metDu := 0
  metLb := 0
  metDeg := 0
  metFp := 0
  t := freeTable 0
  draws := 1
  turns := []
  host := []
  trace := []

end Sys2Proof.Machine
end

