-- ==== Sys2Proof/Machine/Operands.lean ====
section
/-! DEFINITION. Bit-field helpers of the pseudocode (00_scope.md R8, R9), the operand forms of the opcodes and the operands
a command reads (30_encoding.md R60, R61). -/

namespace Sys2Proof.Machine

/-- `lane_i(w) = w[8i+7:8i]` (00_scope.md R8, R9). -/
def lane (i : Nat) (w : Word) : Byte := w.extractLsb' (8 * i) 8

/-- `pack(b0,b1,b2,b3) = {b3,b2,b1,b0}` (00_scope.md R9). -/
def pack (b0 b1 b2 b3 : Byte) : Word := b3 ++ b2 ++ b1 ++ b0

/-- The bit positions 0 to 7 of a byte. -/
def bitPositions : List Nat := [0, 1, 2, 3, 4, 5, 6, 7]

/-- `popcount(v)`, the number of 1 bits (00_scope.md R9). -/
def popcount (v : Byte) : Nat := bitPositions.countP fun i => v.getLsbD i

/-- `parity(v) = popcount(v) mod 2` (00_scope.md R9), true for 1. -/
def parity (v : Byte) : Bool := popcount v % 2 == 1

/-- `ROTL8(v, k)`: v rotated left by k mod 8 places (00_scope.md R9). -/
def rotl8 (v : Byte) (k : Nat) : Byte := v.rotateLeft k

/-- The byte whose bit i is `f i`. -/
def byteOfBits (f : Nat → Bool) : Byte :=
  bitPositions.foldl (fun y i => if f i then y ||| (1#8 <<< i) else y) 0

/-- The operand form of each opcode (30_encoding.md R61, column `form`). -/
def form : Instr → Form
  | .nop => .n
  | .gmul => .bb
  | .ginv => .b
  | .gdbl => .b
  | .affine => .bb
  | .sbuild => .b
  | .ssearch => .n
  | .slookup => .b
  | .mbij => .n
  | .mnl => .n
  | .msac => .n
  | .mdu => .n
  | .mlb => .n
  | .mdeg => .n
  | .mfp => .n
  | .mall => .n
  | .ctl2 => .b
  | .ctl3 => .b
  | .mixct => .w
  | .xtime4 => .w
  | .rotb => .w
  | .mixbs => .w
  | .mixchk => .w

/-- A byte operand's check: bits 31:8 are 0 (30_encoding.md R60). -/
def byteOperand (w : Word) : Bool := w.extractLsb' 8 24 == 0

/-- `opok`: the check of each operand form (30_encoding.md R60). -/
def operandsOk : Form → State → Bool
  | .n, _ => true
  | .b, s => byteOperand s.opa
  | .bb, s => byteOperand s.opa && byteOperand s.opb
  | .w, _ => true

/-- `a = R.OPA[7:0]` (30_encoding.md R60). -/
def operandA (s : State) : Byte := s.opa.extractLsb' 0 8

/-- `b = R.OPB[7:0]` (30_encoding.md R60). -/
def operandB (s : State) : Byte := s.opb.extractLsb' 0 8

end Sys2Proof.Machine
end

