-- ==== Sys2Proof/Machine/Flags.lean ====
section
/-! DEFINITION. STATUS and the flags (10_state.md R19), the error report (60_exceptions.md R136, R137), the acknowledge
(R148) and the interrupt output (R149). -/

namespace Sys2Proof.Machine

/-- The 4-bit code of an error (60_exceptions.md R137). -/
def errCode : ErrCode → BitVec 4
  | .none => 0
  | .illegal => 1
  | .operand => 2
  | .noconst => 3
  | .noinv => 4
  | .diverge => 5

/-- `SetErr(code)` is `R.STATUS.ERR <- code` (00_scope.md R9): "how a command reports an error". -/
def setErr (c : ErrCode) (s : State) : State := { s with err := errCode c }

/-- A flag as one bit. -/
def flagBit (b : Bool) : BitVec 1 := BitVec.ofBool b

/-- The STATUS word: BUSY, DONE, LOCK, HALT, BUSYERR, CFGERR in bits 0 to 5, ERR in bits 11:8, the rest 0
(10_state.md R19). -/
def statusWord (s : State) : Word :=
  0#20 ++ s.err ++ 0#2 ++ flagBit s.cfgerr ++ flagBit s.busyerr ++ flagBit s.halt ++ flagBit s.lock ++ flagBit s.done ++
    flagBit s.busy

/-- The CTRL word: "A read returns `{29'b0, IE, 0, 0}`" (10_state.md R18). -/
def ctrlWord (s : State) : Word := 0#29 ++ flagBit s.ie ++ 0#2

/-- `irq = R.STATUS.DONE & R.CTRL.IE`, level, active high (60_exceptions.md R149; 10_state.md R38). -/
def irq (s : State) : Bool := s.done && s.ie

/-- The engine state: BUSY when BUSY = 1; else HALTED when HALT = 1; else IDLE (10_state.md R14). -/
def engineState (s : State) : EngineState :=
  if s.busy then .busy else if s.halt then .halted else .idle

/-- `Ack()` (60_exceptions.md R148), but for IE, which the CTRL write itself stores (70_reset_and_hazards.md R152). -/
def acknowledge (s : State) : State :=
  { s with done := false, busyerr := false, cfgerr := false, err := if s.halt then s.err else 0 }

end Sys2Proof.Machine
end

