-- ==== Sys2Proof/Machine/Ops.lean ====
section
/-! DEFINITION. The shared operations: acceptance and completion of a command (40_command.md R69, R71), reset and the CTRL
write (70_reset_and_hazards.md R152, R153). GF8CORE has no trap: reporting an error (`setErr`) stands where other hardware
takes an exception, and the acknowledge (`acknowledge`) where it returns from one (60_exceptions.md R136, R147, R148). -/

namespace Sys2Proof.Machine

/-- The end of every completion: `R.STATUS.BUSY <- 0; R.STATUS.DONE <- 1` (40_command.md R71). -/
def finish (s : State) : State := { s with busy := false, done := true }

/-- The completion of a legal command `i` with the body `body`: the operand check, then the body or `SetErr(2)`, then the
end (40_command.md R71). -/
def complete (i : Instr) (body : State → State) (s : State) : Host.Outcome State Fault Refusal :=
  .next (finish (if operandsOk (form i) s then body s else setErr .operand s))

/-- The completion of a word that is not legal: `SetErr(1)`, then the end (40_command.md R71; 60_exceptions.md R138). -/
def completeIllegal (s : State) : State := finish (setErr .illegal s)

/-- `R.RES0 <- w` for a word w. -/
def writeRes0Word (w : Word) (s : State) : State := { s with res0 := w }

/-- `R.RES0 <- zext_32(v)` for a byte v. -/
def writeRes0 (v : Byte) (s : State) : State := writeRes0Word (v.setWidth 32) s

/-- `R.CTRL.IE <- b` (70_reset_and_hazards.md R152). -/
def setIe (b : Bool) (s : State) : State := { s with ie := b }

/-- `R.STATUS.BUSYERR <- 1`: a host write dropped because BUSY = 1 (60_exceptions.md R143). -/
def setBusyerr (s : State) : State := { s with busyerr := true }

/-- `R.STATUS.CFGERR <- 1`: a host write dropped because LOCK = 1 (60_exceptions.md R144). -/
def setCfgerr (s : State) : State := { s with cfgerr := true }

/-- One free draw is used up (93_implementation_defined.md U1 to U3; log entries 1 to 3). -/
def countDraw (s : State) : State := { s with draws := s.draws + 1 }

/-- The schedule still to come (log entry 4). -/
def setTurns (us : List Turn) (s : State) : State := { s with turns := us }

/-- The host's statements still to run (log entry 5). -/
def setHost (hs : List HostStmt) (s : State) : State := { s with host := hs }

/-- One served transaction is added to the trace (30_encoding.md R68). -/
def record (r : BusRecord) (s : State) : State := { s with trace := r :: s.trace }

/-- The acceptance of command word `w` (40_command.md R69, the branch `accepted`). -/
def accept (w : Word) (s : State) : State :=
  { s with cmd := w, lock := true, busy := true, done := false, err := 0 }

/-- A host write of `w` to CMD: ignored while HALT = 1; dropped with BUSYERR while BUSY = 1; else accepted
(40_command.md R69; 60_exceptions.md R146). -/
def cmdWrite (w : Word) (s : State) : State :=
  if s.halt then s else if s.busy then setBusyerr s else accept w s

/-- `Reset()`: every field of the state record at its value of 10_state.md R40, T at a fresh draw; the pending command is
discarded (70_reset_and_hazards.md R153). The platform's and the host's own state (schedule, statements, trace) is outside
the block and stays. -/
def resetBlock (s : State) : State :=
  { State.reset with t := freeTable s.draws, draws := s.draws + 1, turns := s.turns, host := s.host, trace := s.trace }

/-- A host write of `w` to CTRL: SRST in bit 0 resets and hides the other bits; else IE is bit 2, and ACK in bit 1
acknowledges (70_reset_and_hazards.md R152). -/
def ctrlWrite (w : Word) (s : State) : State :=
  if w.getLsbD 0 then resetBlock s
  else
    let s' := setIe (w.getLsbD 2) s
    if w.getLsbD 1 then acknowledge s' else s'

end Sys2Proof.Machine
end

