-- ==== Sys2Proof/Machine/Field.lean ====
section
/-! DEFINITION. Field arithmetic: the functions of 41_field.md R80 to R83 and the commands GMUL, GINV, GDBL (R85 to R87),
and NOP (40_command.md R77). -/

namespace Sys2Proof.Machine

/-- `zext_16(M)` for `M = {1, R.MOD.MLO}` (41_field.md R80; 10_state.md R25). -/
def modulus16 (mlo : Byte) : BitVec 16 := (1#1 ++ mlo).setWidth 16

/-- The carry-less product of two bytes: the first loop of `mul` (41_field.md R81). -/
def clmul (a b : Byte) : BitVec 16 :=
  bitPositions.foldl (fun p i => if b.getLsbD i then p ^^^ (a.setWidth 16 <<< i) else p) 0

/-- The reduction of a product: for d = 14 downto 8, the modulus shifted to bit d is XORed in where bit d is set
(41_field.md R81; 90_conflicts.md C1). -/
def reduce (mlo : Byte) (p : BitVec 16) : Byte :=
  ([14, 13, 12, 11, 10, 9, 8].foldl
    (fun p d => if p.getLsbD d then p ^^^ (modulus16 mlo <<< (d - 8)) else p) p).setWidth 8

/-- `mul(a, b)` under the modulus whose low byte is `mlo` (41_field.md R81). -/
def mul (mlo a b : Byte) : Byte := reduce mlo (clmul a b)

/-- `inv(a)`: the inverse byte and whether a is 0 or a unit (41_field.md R82). "found by exhaustive search over [1,255]":
the least b with `mul(a, b) == 1`, which is the only one (log entry 10). -/
def inv (mlo a : Byte) : Byte × Bool :=
  if a = 0 then (0, true)
  else
    match allBytes.tail.find? fun b => mul mlo a b == 1 with
    | some b => (b, true)
    | none => (0, false)

/-- `dbl(a)`, xtime (41_field.md R83). -/
def dbl (mlo a : Byte) : Byte := (a <<< 1) ^^^ (if a.getLsbD 7 then mlo else 0)

/-- NOP: `skip` (40_command.md R77). -/
def execNop (s : State) : Host.Outcome State Fault Refusal := complete .nop (fun s => s) s

/-- GMUL: `R.RES0 <- zext_32(mul(a, b))` (41_field.md R85). -/
def execGmul (s : State) : Host.Outcome State Fault Refusal :=
  complete .gmul (fun s => writeRes0 (mul s.mlo (operandA s) (operandB s)) s) s

/-- GINV: RES0 is the inverse's byte; `SetErr(4)` if a is not a unit (41_field.md R86). -/
def execGinv (s : State) : Host.Outcome State Fault Refusal :=
  complete .ginv
    (fun s =>
      let r := inv s.mlo (operandA s)
      let s' := writeRes0 r.1 s
      if r.2 then s' else setErr .noinv s') s

/-- GDBL: `R.RES0 <- zext_32(dbl(a))` (41_field.md R87). -/
def execGdbl (s : State) : Host.Outcome State Fault Refusal :=
  complete .gdbl (fun s => writeRes0 (dbl s.mlo (operandA s)) s) s

end Sys2Proof.Machine
end

