-- ==== Sys2Proof/Machine/Affine.lean ====
section
/-! DEFINITION. The affine transform (42_affine.md R90, R91) and the command AFFINE (R92). -/

namespace Sys2Proof.Machine

/-- `ROW(i) := ROTL8(V, i)`: row i of the affine matrix of the seed V (42_affine.md R90). -/
def affineRow (seed : Byte) (i : Nat) : Byte := rotl8 seed i

/-- `aff(x, C)`: output bit i is `parity(ROW(i) & x) ^ C[i]` (42_affine.md R91). -/
def aff (seed x c : Byte) : Byte :=
  byteOfBits fun i => parity (affineRow seed i &&& x) ^^ c.getLsbD i

/-- AFFINE: `R.RES0 <- zext_32(aff(x, C))` with x = OPA[7:0] and C = OPB[7:0] (42_affine.md R92). -/
def execAffine (s : State) : Host.Outcome State Fault Refusal :=
  complete .affine (fun s => writeRes0 (aff s.seed (operandA s) (operandB s)) s) s

end Sys2Proof.Machine
end

