-- ==== Sys2Proof/Machine/Sbox.lean ====
section
/-! DEFINITION. The S-box generator (43_sbox.md R94 to R96), the constant-time lookup (45_mixcolumns.md R122) and the
commands SBUILD, SSEARCH, SLOOKUP (43_sbox.md R97 to R99). -/

namespace Sys2Proof.Machine

/-- `build(C)[x] := aff(fst(inv(x)), C)` (43_sbox.md R94). -/
def build (mlo seed c : Byte) : Table := Indexed.tabulate fun x => aff seed (inv mlo x).1 c

/-- The number of distinct outputs of a table, `|{ U[x] : x in 0..255 }|` (43_sbox.md R95; 44_metrics.md R105). -/
def distinctOutputs (u : Table) : Nat := allBytes.countP fun y => allBytes.any fun x => Indexed.at u x == y

/-- The number of fixed points of a table, `|{ x in 0..255 : U[x] == x }|` (44_metrics.md R117). -/
def fixedPoints (u : Table) : Nat := allBytes.countP fun x => Indexed.at u x == x

/-- `valid(U)`: a bijection with no fixed point (43_sbox.md R95). -/
def validSbox (u : Table) : Bool := distinctOutputs u == 256 && allBytes.all fun x => Indexed.at u x != x

/-- `search()`: "the least C in 0..255 with valid(build(C)), or NONE if there is none" (43_sbox.md R96). -/
def searchConst (mlo seed : Byte) : Option Byte := allBytes.find? fun c => validSbox (build mlo seed c)

/-- `ct_lookup(tab, idx)`: the masked scan of the whole table (45_mixcolumns.md R122). -/
def ctLookup (tab : Table) (idx : Byte) : Byte :=
  allBytes.foldl (fun r i => r ^^^ (Indexed.at tab i &&& (if i = idx then 0xFF else 0x00))) 0

/-- The table, constant and validity that a successful SBUILD or SSEARCH writes for the constant `c` (43_sbox.md R97, R98). -/
def installTable (c : Byte) (s : State) : State :=
  { s with t := build s.mlo s.seed c, sconst := c, svalid := true }

/-- SBUILD: T becomes build(C), CONST becomes C, SVALID becomes 1, for C = OPA[7:0] (43_sbox.md R97). -/
def execSbuild (s : State) : Host.Outcome State Fault Refusal :=
  complete .sbuild (fun s => installTable (operandA s) s) s

/-- T becomes unspecified: "any byte" per entry, a fresh draw (43_sbox.md R98; 93_implementation_defined.md U3), and
SVALID <- 0. -/
def scrambleTable (s : State) : State :=
  { s with t := freeTable s.draws, draws := s.draws + 1, svalid := false }

/-- The body of SSEARCH once search() has answered (43_sbox.md R98): on success the table, the constant and RES0; on NONE
an unspecified table (93 U3, a fresh draw), SVALID = 0 and `SetErr(3)`. -/
def finishSearch (found : Option Byte) (s : State) : State :=
  match found with
  | some c => writeRes0 c (installTable c s)
  | none => setErr .noconst (scrambleTable s)

/-- SSEARCH (43_sbox.md R98). -/
def execSsearch (s : State) : Host.Outcome State Fault Refusal :=
  complete .ssearch (fun s => finishSearch (searchConst s.mlo s.seed) s) s

/-- SLOOKUP: `R.RES0 <- zext_32(ct_lookup(T, a))` (43_sbox.md R99). -/
def execSlookup (s : State) : Host.Outcome State Fault Refusal :=
  complete .slookup (fun s => writeRes0 (ctLookup s.t (operandA s)) s) s

end Sys2Proof.Machine
end

