-- ==== Sys2Proof/Machine/Metrics.lean ====
section
/-! DEFINITION. The property evaluator: the seven metrics (44_metrics.md R105 to R117) and the commands MBIJ to MALL. The
metrics are exact integers; a register takes the low bits of its width, which hold the whole value (R120). -/

namespace Sys2Proof.Machine

/-- The greatest of a list of naturals, 0 if it is empty. -/
def maxOf (l : List Nat) : Nat := l.foldl max 0

/-- The byte values 1 to 255: the nonzero masks and differences. -/
def nonzeroBytes : List Byte := allBytes.tail

/-- `BIJ(T)` (44_metrics.md R105). -/
def metricBij (t : Table) : Nat := distinctOutputs t

/-- `(−1)^b` as an integer: `1 - 2*b`. -/
def sign (b : Bool) : Int := if b then -1 else 1

/-- One in-place stage of the Walsh-Hadamard transform with stride h (44_metrics.md R107): for each i with (i & h) == 0,
`(F[i], F[i+h]) := (F[i] + F[i+h], F[i] - F[i+h])`. -/
def butterflyStage (h : Byte) (f : Indexed Int) : Indexed Int :=
  Indexed.tabulate fun j =>
    if j &&& h = 0 then Indexed.at f j + Indexed.at f (j + h) else Indexed.at f (j - h) - Indexed.at f j

/-- The eight stages, stride 1, 2, 4, ..., 128 (44_metrics.md R107). -/
def walshHadamard (f : Indexed Int) : Indexed Int :=
  ([1, 2, 4, 8, 16, 32, 64, 128] : List Byte).foldl (fun f h => butterflyStage h f) f

/-- The ±1 form of the Boolean function `x ↦ parity(T[x] & u)` (44_metrics.md R107). -/
def signTable (t : Table) (u : Byte) : Indexed Int := Indexed.tabulate fun x => sign (parity (Indexed.at t x &&& u))

/-- `maxW`: the greatest absolute transform coefficient for the output mask u, a = 0 included (44_metrics.md R107). -/
def maxWalsh (t : Table) (u : Byte) : Nat :=
  let w := walshHadamard (signTable t u)
  maxOf (allBytes.map fun a => (Indexed.at w a).natAbs)

/-- `NL(T)`: the least `128 - maxW/2` over the nonzero output masks, from 128 (44_metrics.md R107). -/
def metricNl (t : Table) : Int :=
  nonzeroBytes.foldl (fun best u => min best (128 - (maxWalsh t u / 2 : Nat))) 128

/-- `SAC(T)`: the sum of the flipped output bits over every input and input bit (44_metrics.md R109). -/
def metricSac (t : Table) : Nat :=
  (allBytes.map fun x =>
    (bitPositions.map fun i => popcount (Indexed.at t x ^^^ Indexed.at t (x ^^^ (1#8 <<< i)))).sum).sum

/-- `SAC_percent(T)`, the host's view of the sum (44_metrics.md R109). -/
def sacPercent (t : Table) : Rat := (metricSac t : Rat) * 100 / 16384

/-- One bucket of the difference histogram: `|{ x in 0..255 : T[x] ^ T[x ^ dx] == dy }|` (44_metrics.md R111). -/
def differenceCount (t : Table) (dx dy : Byte) : Nat :=
  allBytes.countP fun x => Indexed.at t x ^^^ Indexed.at t (x ^^^ dx) == dy

/-- `DU(T)`: the greatest bucket over dx in 1..255 and dy in 0..255 (44_metrics.md R111). -/
def metricDu (t : Table) : Nat :=
  maxOf (nonzeroBytes.map fun dx => maxOf (allBytes.map fun dy => differenceCount t dx dy))

/-- The correlation sum of input mask a and output mask u (44_metrics.md R113). -/
def correlation (t : Table) (a u : Byte) : Int :=
  (allBytes.map fun x => sign (parity (a &&& x) ^^ parity (u &&& Indexed.at t x))).sum

/-- `LB(T)`: half the greatest absolute correlation over a, u in 1..255 (44_metrics.md R113). -/
def metricLb (t : Table) : Nat :=
  maxOf (nonzeroBytes.map fun a => maxOf (nonzeroBytes.map fun u => (correlation t a u).natAbs)) / 2

/-- One stage of the Möbius transform: for each m with m[i] == 1, `g[m] := g[m] ^ g[m ^ (1 << i)]` (44_metrics.md R115). -/
def mobiusStage (i : Nat) (g : Indexed Bool) : Indexed Bool :=
  Indexed.tabulate fun m =>
    if m.getLsbD i then Indexed.at g m ^^ Indexed.at g (m ^^^ (1#8 <<< i)) else Indexed.at g m

/-- The algebraic normal form of output bit k (44_metrics.md R115). -/
def anf (t : Table) (k : Nat) : Indexed Bool :=
  bitPositions.foldl (fun g i => mobiusStage i g) (Indexed.tabulate fun m => (Indexed.at t m).getLsbD k)

/-- `DEG(T)`: the greatest weight of a monomial with a nonzero coefficient, over the 8 output bits; 0 if there is none
(44_metrics.md R115). -/
def metricDeg (t : Table) : Nat :=
  maxOf (bitPositions.map fun k =>
    let g := anf t k
    maxOf ((allBytes.filter fun m => Indexed.at g m).map popcount))

/-- `FP(T)` (44_metrics.md R117). -/
def metricFp (t : Table) : Nat := fixedPoints t

/-- `R.MET_BIJ <- BIJ(T)` (44_metrics.md R106). -/
def writeBij (s : State) : State := { s with metBij := BitVec.ofNat 9 (metricBij s.t) }

/-- `R.MET_NL <- NL(T)` (44_metrics.md R108). -/
def writeNl (s : State) : State := { s with metNl := BitVec.ofInt 8 (metricNl s.t) }

/-- `R.MET_SAC <- SAC(T)` (44_metrics.md R110). -/
def writeSac (s : State) : State := { s with metSac := BitVec.ofNat 15 (metricSac s.t) }

/-- `R.MET_DU <- DU(T)` (44_metrics.md R112). -/
def writeDu (s : State) : State := { s with metDu := BitVec.ofNat 9 (metricDu s.t) }

/-- `R.MET_LB <- LB(T)` (44_metrics.md R114). -/
def writeLb (s : State) : State := { s with metLb := BitVec.ofNat 8 (metricLb s.t) }

/-- `R.MET_DEG <- DEG(T)` (44_metrics.md R116). -/
def writeDeg (s : State) : State := { s with metDeg := BitVec.ofNat 4 (metricDeg s.t) }

/-- `R.MET_FP <- FP(T)` (44_metrics.md R118). -/
def writeFp (s : State) : State := { s with metFp := BitVec.ofNat 9 (metricFp s.t) }

/-- MBIJ (44_metrics.md R106). -/
def execMbij (s : State) : Host.Outcome State Fault Refusal :=
  complete .mbij (fun s => writeRes0Word (BitVec.ofNat 32 (metricBij s.t)) (writeBij s)) s

/-- MNL (44_metrics.md R108). -/
def execMnl (s : State) : Host.Outcome State Fault Refusal :=
  complete .mnl (fun s => writeRes0Word (BitVec.ofInt 32 (metricNl s.t)) (writeNl s)) s

/-- MSAC (44_metrics.md R110). -/
def execMsac (s : State) : Host.Outcome State Fault Refusal :=
  complete .msac (fun s => writeRes0Word (BitVec.ofNat 32 (metricSac s.t)) (writeSac s)) s

/-- MDU (44_metrics.md R112). -/
def execMdu (s : State) : Host.Outcome State Fault Refusal :=
  complete .mdu (fun s => writeRes0Word (BitVec.ofNat 32 (metricDu s.t)) (writeDu s)) s

/-- MLB (44_metrics.md R114). -/
def execMlb (s : State) : Host.Outcome State Fault Refusal :=
  complete .mlb (fun s => writeRes0Word (BitVec.ofNat 32 (metricLb s.t)) (writeLb s)) s

/-- MDEG (44_metrics.md R116). -/
def execMdeg (s : State) : Host.Outcome State Fault Refusal :=
  complete .mdeg (fun s => writeRes0Word (BitVec.ofNat 32 (metricDeg s.t)) (writeDeg s)) s

/-- MFP (44_metrics.md R118). -/
def execMfp (s : State) : Host.Outcome State Fault Refusal :=
  complete .mfp (fun s => writeRes0Word (BitVec.ofNat 32 (metricFp s.t)) (writeFp s)) s

/-- MALL: all seven metric registers; RES0 is unchanged (44_metrics.md R119). -/
def execMall (s : State) : Host.Outcome State Fault Refusal :=
  complete .mall (fun s => writeFp (writeDeg (writeLb (writeDu (writeSac (writeNl (writeBij s))))))) s

end Sys2Proof.Machine
end

