-- ==== Sys2Proof/Machine/MixColumns.lean ====
section
/-! DEFINITION. The two MixColumns forms (45_mixcolumns.md R121 to R132) and the commands CTL2 to MIXCHK. -/

namespace Sys2Proof.Machine

/-- `mul2[i] := dbl(i)` (45_mixcolumns.md R121); a function of MLO, not state (10_state.md R36). -/
def mul2 (mlo : Byte) : Table := Indexed.tabulate fun i => dbl mlo i

/-- `mul3[i] := dbl(i) ^ i` (45_mixcolumns.md R121). -/
def mul3 (mlo : Byte) : Table := Indexed.tabulate fun i => dbl mlo i ^^^ i

/-- `mixcol_ct` on the four lanes of `w`, packed: each multiple by 2 or 3 is a `ct_lookup` (45_mixcolumns.md R126, R127). -/
def mixcolCt (mlo : Byte) (w : Word) : Word :=
  let c0 := lane 0 w
  let c1 := lane 1 w
  let c2 := lane 2 w
  let c3 := lane 3 w
  let l2 := ctLookup (mul2 mlo)
  let l3 := ctLookup (mul3 mlo)
  pack (l2 c0 ^^^ l3 c1 ^^^ c2 ^^^ c3) (c0 ^^^ l2 c1 ^^^ l3 c2 ^^^ c3) (c0 ^^^ c1 ^^^ l2 c2 ^^^ l3 c3)
    (l3 c0 ^^^ c1 ^^^ c2 ^^^ l2 c3)

/-- `xtime4(w)`: "a single packed arithmetic expression" (45_mixcolumns.md R128). -/
def xtime4 (mlo : Byte) (w : Word) : Word :=
  ((w &&& 0x7F7F7F7F) <<< 1) ^^^ (((w >>> 7) &&& 0x01010101) * mlo.setWidth 32)

/-- `rotb(w)`: rotate right by one byte (45_mixcolumns.md R130). -/
def rotb (w : Word) : Word := (w >>> 8) ||| (w <<< 24)

/-- `mixcol_bs(w) := xtime4(w ^ r1) ^ r1 ^ r2 ^ r3` (45_mixcolumns.md R132). -/
def mixcolBs (mlo : Byte) (w : Word) : Word :=
  let r1 := rotb w
  let r2 := rotb r1
  let r3 := rotb r2
  xtime4 mlo (w ^^^ r1) ^^^ r1 ^^^ r2 ^^^ r3

/-- CTL2: `R.RES0 <- zext_32(ct_lookup(mul2, a))` (45_mixcolumns.md R123). -/
def execCtl2 (s : State) : Host.Outcome State Fault Refusal :=
  complete .ctl2 (fun s => writeRes0 (ctLookup (mul2 s.mlo) (operandA s)) s) s

/-- CTL3: `R.RES0 <- zext_32(ct_lookup(mul3, a))` (45_mixcolumns.md R124). -/
def execCtl3 (s : State) : Host.Outcome State Fault Refusal :=
  complete .ctl3 (fun s => writeRes0 (ctLookup (mul3 s.mlo) (operandA s)) s) s

/-- MIXCT (45_mixcolumns.md R127). -/
def execMixct (s : State) : Host.Outcome State Fault Refusal :=
  complete .mixct (fun s => writeRes0Word (mixcolCt s.mlo s.opa) s) s

/-- XTIME4 (45_mixcolumns.md R129). -/
def execXtime4 (s : State) : Host.Outcome State Fault Refusal :=
  complete .xtime4 (fun s => writeRes0Word (xtime4 s.mlo s.opa) s) s

/-- ROTB (45_mixcolumns.md R131). -/
def execRotb (s : State) : Host.Outcome State Fault Refusal :=
  complete .rotb (fun s => writeRes0Word (rotb s.opa) s) s

/-- MIXBS (45_mixcolumns.md R133). -/
def execMixbs (s : State) : Host.Outcome State Fault Refusal :=
  complete .mixbs (fun s => writeRes0Word (mixcolBs s.mlo s.opa) s) s

/-- `R.RES0 <- t; R.RES1 <- s`: "both hex results" of a trial (45_mixcolumns.md R134). -/
def writeResults (tw sw : Word) (s : State) : State := { s with res0 := tw, res1 := sw }

/-- `SetErr(5); R.STATUS.HALT <- 1` (45_mixcolumns.md R134; 60_exceptions.md R142). -/
def diverge (s : State) : State := { setErr .diverge s with halt := true }

/-- The end of an equivalence trial with the table result `tw` and the bit-sliced result `sw`: both are stored, and where
they differ `SetErr(5)` and HALT <- 1 (45_mixcolumns.md R134; 60_exceptions.md R142). -/
def checkEqual (tw sw : Word) (s : State) : State :=
  if tw = sw then writeResults tw sw s else diverge (writeResults tw sw s)

/-- MIXCHK: one trial of the Equivalence Verifier (45_mixcolumns.md R134). -/
def execMixchk (s : State) : Host.Outcome State Fault Refusal :=
  complete .mixchk (fun s => checkEqual (mixcolCt s.mlo s.opa) (mixcolBs s.mlo s.opa) s) s

end Sys2Proof.Machine
end

