-- ==== Sys2Proof/Machine/Dispatch.lean ====
section
/-! DEFINITION. One arm per command: the completion of each legal command (40_command.md R71). -/

namespace Sys2Proof.Machine

/-- The completion of command `i` in state `s` (40_command.md R71). -/
def exec (i : Instr) (s : State) : Host.Outcome State Fault Refusal :=
  match i with
  | .nop => Sys2Proof.Machine.execNop s
  | .gmul => Sys2Proof.Machine.execGmul s
  | .ginv => Sys2Proof.Machine.execGinv s
  | .gdbl => Sys2Proof.Machine.execGdbl s
  | .affine => Sys2Proof.Machine.execAffine s
  | .sbuild => Sys2Proof.Machine.execSbuild s
  | .ssearch => Sys2Proof.Machine.execSsearch s
  | .slookup => Sys2Proof.Machine.execSlookup s
  | .mbij => Sys2Proof.Machine.execMbij s
  | .mnl => Sys2Proof.Machine.execMnl s
  | .msac => Sys2Proof.Machine.execMsac s
  | .mdu => Sys2Proof.Machine.execMdu s
  | .mlb => Sys2Proof.Machine.execMlb s
  | .mdeg => Sys2Proof.Machine.execMdeg s
  | .mfp => Sys2Proof.Machine.execMfp s
  | .mall => Sys2Proof.Machine.execMall s
  | .ctl2 => Sys2Proof.Machine.execCtl2 s
  | .ctl3 => Sys2Proof.Machine.execCtl3 s
  | .mixct => Sys2Proof.Machine.execMixct s
  | .xtime4 => Sys2Proof.Machine.execXtime4 s
  | .rotb => Sys2Proof.Machine.execRotb s
  | .mixbs => Sys2Proof.Machine.execMixbs s
  | .mixchk => Sys2Proof.Machine.execMixchk s

end Sys2Proof.Machine
end

