-- ==== Sys2Proof/Machine/Window.lean ====
section
/-! DEFINITION. The register window: its map (20_memory.md R43), each register's read and write (10_state.md R15 to R34;
20_memory.md R44, R50), and the bus transactions (R45, R46). -/

namespace Sys2Proof.Machine

/-- The register at a byte offset (20_memory.md R43): the word that holds the offset. -/
def regAt (off : Offset) : Reg :=
  match off.toNat / 4 * 4 with
  | 0x000 => .id
  | 0x004 => .ctrl
  | 0x008 => .status
  | 0x00C => .cmd
  | 0x010 => .opa
  | 0x014 => .opb
  | 0x018 => .res0
  | 0x01C => .res1
  | 0x020 => .mod
  | 0x024 => .seed
  | 0x028 => .amat0
  | 0x02C => .amat1
  | 0x030 => .sconst
  | 0x040 => .metBij
  | 0x044 => .metNl
  | 0x048 => .metSac
  | 0x04C => .metDu
  | 0x050 => .metLb
  | 0x054 => .metDeg
  | 0x058 => .metFp
  | n => if h : 0x100 ≤ n ∧ n < 0x200 then .sbox ⟨(n - 0x100) / 4, by omega⟩ else .reserved

/-- `off(REG)`: the register's offset (20_memory.md R43; 30_encoding.md R65). A reserved offset has no one register; 0x034
stands for it. -/
def offsetOf : Reg → Offset
  | .id => 0x000
  | .ctrl => 0x004
  | .status => 0x008
  | .cmd => 0x00C
  | .opa => 0x010
  | .opb => 0x014
  | .res0 => 0x018
  | .res1 => 0x01C
  | .mod => 0x020
  | .seed => 0x024
  | .amat0 => 0x028
  | .amat1 => 0x02C
  | .sconst => 0x030
  | .metBij => 0x040
  | .metNl => 0x044
  | .metSac => 0x048
  | .metDu => 0x04C
  | .metLb => 0x050
  | .metDeg => 0x054
  | .metFp => 0x058
  | .sbox k => BitVec.ofNat 12 (0x100 + 4 * k.val)
  | .reserved => 0x034

/-- How each register answers a write: the type column of the map (20_memory.md R43). -/
def writeAccess : Reg → WriteAccess
  | .ctrl => .ctrl
  | .cmd => .command
  | .opa | .opb | .sbox _ => .rwb
  | .mod | .seed => .rwl
  | .id | .status | .res0 | .res1 | .amat0 | .amat1 | .sconst => .ignored
  | .metBij | .metNl | .metSac | .metDu | .metLb | .metDeg | .metFp | .reserved => .ignored

/-- The bits of an ROU register that are unspecified while BUSY = 1: its fields, not its reserved bits (10_state.md R15,
R16, R33, R34; 20_memory.md R50; log entry 2). A register of another type has none. -/
def unspecifiedBits : Reg → Word
  | .res0 | .res1 | .sbox _ => 0xFFFFFFFF
  | .sconst | .metBij | .metDu | .metFp => 0x000001FF
  | .metNl | .metLb => 0x000000FF
  | .metSac => 0x00007FFF
  | .metDeg => 0x0000000F
  | .id | .ctrl | .status | .cmd | .opa | .opb | .mod | .seed | .amat0 | .amat1 | .reserved => 0

/-- Whether a read of the register is ROU: "the field if BUSY = 0; an unspecified value if BUSY = 1" (10_state.md R15). -/
def readsRou (r : Reg) : Bool := unspecifiedBits r != 0

/-- Word k of the S-box window: `pack(T[4k], T[4k+1], T[4k+2], T[4k+3])` (20_memory.md R50). -/
def sboxWord (t : Table) (k : Fin 64) : Word :=
  pack (t[4 * k.val]'(by omega)) (t[4 * k.val + 1]'(by omega)) (t[4 * k.val + 2]'(by omega))
    (t[4 * k.val + 3]'(by omega))

/-- The table after a write of `w` to word k: `T[4k+i] <- lane_i(wdata)` (20_memory.md R50). -/
def sboxStore (t : Table) (k : Fin 64) (w : Word) : Table :=
  (((t.set (4 * k.val) (lane 0 w) (by omega)).set (4 * k.val + 1) (lane 1 w) (by omega)).set
    (4 * k.val + 2) (lane 2 w) (by omega)).set (4 * k.val + 3) (lane 3 w) (by omega)

/-- The value of each register's fields, reserved bits 0 (10_state.md R16 to R34; 20_memory.md R44, R50). -/
def regValue : Reg → State → Word
  | .id, _ => 0x47463801
  | .ctrl, s => ctrlWord s
  | .status, s => statusWord s
  | .cmd, s => s.cmd
  | .opa, s => s.opa
  | .opb, s => s.opb
  | .res0, s => s.res0
  | .res1, s => s.res1
  | .mod, s => 0#23 ++ 1#1 ++ s.mlo
  | .seed, s => s.seed.setWidth 32
  | .amat0, s => pack (affineRow s.seed 0) (affineRow s.seed 1) (affineRow s.seed 2) (affineRow s.seed 3)
  | .amat1, s => pack (affineRow s.seed 4) (affineRow s.seed 5) (affineRow s.seed 6) (affineRow s.seed 7)
  | .sconst, s => 0#23 ++ flagBit s.svalid ++ s.sconst
  | .metBij, s => s.metBij.setWidth 32
  | .metNl, s => s.metNl.setWidth 32
  | .metSac, s => s.metSac.setWidth 32
  | .metDu, s => s.metDu.setWidth 32
  | .metLb, s => s.metLb.setWidth 32
  | .metDeg, s => s.metDeg.setWidth 32
  | .metFp, s => s.metFp.setWidth 32
  | .sbox k, s => sboxWord s.t k
  | .reserved, _ => 0

/-- The value a read of a register returns, and the state after it: an ROU register read while BUSY = 1 answers a fresh free
value in its fields (93 U2); the only thing a read changes is the model's count of draws (20_memory.md R48). -/
def readReg (r : Reg) (s : State) : Word × State :=
  if readsRou r && s.busy then (Config.freeWord s.draws &&& unspecifiedBits r, countDraw s)
  else (regValue r s, s)

/-- `OPA <- w` (10_state.md R29). -/
def setOpa (w : Word) (s : State) : State := { s with opa := w }

/-- `OPB <- w` (10_state.md R30). -/
def setOpb (w : Word) (s : State) : State := { s with opb := w }

/-- `MLO <- b` (10_state.md R24). -/
def setMlo (b : Byte) (s : State) : State := { s with mlo := b }

/-- `V <- b` (10_state.md R26). -/
def setSeed (b : Byte) (s : State) : State := { s with seed := b }

/-- A host's word `w` stored in word k of the S-box window, which clears SVALID (20_memory.md R50). -/
def storeSbox (k : Fin 64) (w : Word) (s : State) : State := { s with t := sboxStore s.t k w, svalid := false }

/-- The store of an RWB or RWL register's field (10_state.md R15, R24, R26, R29, R30; 20_memory.md R50). No other register
stores what the host writes. -/
def storeReg (r : Reg) (w : Word) (s : State) : State :=
  match r with
  | .opa => setOpa w s
  | .opb => setOpb w s
  | .mod => setMlo (w.extractLsb' 0 8) s
  | .seed => setSeed (w.extractLsb' 0 8) s
  | .sbox k => storeSbox k w s
  | .id | .ctrl | .status | .cmd | .res0 | .res1 | .amat0 | .amat1 | .sconst => s
  | .metBij | .metNl | .metSac | .metDu | .metLb | .metDeg | .metFp | .reserved => s

/-- A host write of `w` to a register, as its type says (10_state.md R15; 60_exceptions.md R143, R144, R146). -/
def writeReg (r : Reg) (w : Word) (s : State) : State :=
  match writeAccess r with
  | .ignored => s
  | .ctrl => ctrlWrite w s
  | .command => cmdWrite w s
  | .rwb => if s.busy then setBusyerr s else storeReg r w s
  | .rwl =>
    if s.busy then setBusyerr s
    else if s.lock then setCfgerr s
    else storeReg r w s

/-- Whether a transaction is served: n = 4 and off[1:0] = 0 (20_memory.md R45). -/
def served (off : Offset) (n : Nat) : Bool := n == 4 && off.extractLsb' 0 2 == 0

/-- `MemRead(BASE+off, n)`: `(rdata, resp)` and the state after it; ERROR with rdata = 0 and no effect if it is not served
(20_memory.md R45, R46). -/
def memRead (off : Offset) (n : Nat) (s : State) : (Word × Resp) × State :=
  if served off n then
    let r := readReg (regAt off) s
    ((r.1, .okay), r.2)
  else ((0, .error), s)

/-- `MemWrite(BASE+off, n, wdata)`: the response and the state after it (20_memory.md R45, R46). -/
def memWrite (off : Offset) (n : Nat) (w : Word) (s : State) : Resp × State :=
  if served off n then (.okay, writeReg (regAt off) w s) else (.error, s)

/-- The platform address `BASE+off` (20_memory.md R41, R45). -/
def windowAddress (off : Offset) : Nat := Config.base + off.toNat

/-- The window offset of a platform address, if it reaches the window (20_memory.md R41). -/
def windowOffset (addr : Nat) : Option Offset :=
  if Config.base ≤ addr ∧ addr < Config.base + 4096 then some (BitVec.ofNat 12 (addr - Config.base)) else none

end Sys2Proof.Machine
end

