-- ==== Sys2Proof/Machine/Turns.lean ====
section
/-! DEFINITION. What each agent does in its turn (20_memory.md R51): the engine completes the pending command (40_command.md
R71), the host runs its next statement (30_encoding.md R65), the platform asserts `rst` (70_reset_and_hazards.md R152). -/

namespace Sys2Proof.Machine

/-- The completion of the pending word `R.CMD` (40_command.md R71): decoded at completion (30_encoding.md R59), an illegal
word reports ERR = 1, a legal one is executed. -/
def completePending (s : State) : Host.Outcome State Fault Refusal :=
  match decode s.cmd with
  | .ok i => exec i s
  | .error _ => .next (completeIllegal s)

/-- The engine's turn: "one atomic engine step, enabled only while R.STATUS.BUSY = 1" (40_command.md R71); nothing happens
when it is not enabled. -/
def engineTurn (s : State) : Host.Outcome State Fault Refusal :=
  if s.busy then completePending s else .next s

/-- A served read: the value goes to the host, the statements left are `rest` (30_encoding.md R65, R68). -/
def hostRead (off : Offset) (n : Nat) (rest : List HostStmt) (s : State) : Host.Outcome State Fault Refusal :=
  match memRead off n s with
  | ((rdata, .okay), s') => .next (setHost rest (record (.readBack off rdata) s'))
  | ((_, .error), _) => .fault (.busError off)

/-- A served write; the statements left are `rest` (30_encoding.md R65, R68). -/
def hostWrite (off : Offset) (n : Nat) (w : Word) (rest : List HostStmt) (s : State) : Host.Outcome State Fault Refusal :=
  match memWrite off n w s with
  | (.okay, s') => .next (setHost rest (record (.wrote off w) s'))
  | (.error, _) => .fault (.busError off)

/-- The host's turn: one transaction of its next statement (20_memory.md R51; 30_encoding.md R65). `poll` reads STATUS and
stays until the value read has bit 0 clear; `wait_irq` makes no transaction and stays until irq = 1. -/
def hostTurn (s : State) : Host.Outcome State Fault Refusal :=
  match s.host with
  | [] => .next s
  | .read off n :: rest => hostRead off n rest s
  | .write off n w :: rest => hostWrite off n w rest s
  | .poll :: rest => hostRead (offsetOf .status) 4 (if (statusWord s).getLsbD 0 then .poll :: rest else rest) s
  | .waitIrq :: rest => .next (if irq s then setHost rest s else s)

/-- What a turn does. -/
def takeTurn : Turn → State → Host.Outcome State Fault Refusal
  | .engine, s => engineTurn s
  | .host, s => hostTurn s
  | .rst, s => .next (resetBlock s)

/-- The next turn and the state without it: the head of the schedule; when the schedule is used up, the engine if a command
is pending, else the host (log entry 4). -/
def nextTurn (s : State) : Turn × State :=
  match s.turns with
  | [] => (if s.busy then .engine else .host, s)
  | u :: us => (u, setTurns us s)

/-- The state in which word `w` is the accepted, pending command and the engine has the next turn. -/
def withPending (w : Word) (s : State) : State :=
  match s.turns with
  | [] => accept w s
  | u :: us => setTurns (.engine :: u :: us) (accept w s)

/-- The statements of the host's pseudo-instructions (30_encoding.md R67): write OPA, write OPB, run a command and poll. -/
def wr (r : Reg) (w : Word) : HostStmt := .write (offsetOf r) 4 w

/-- `rd REG` (30_encoding.md R65). -/
def rd (r : Reg) : HostStmt := .read (offsetOf r) 4

/-- `CMD(x); poll` (30_encoding.md R67). -/
def runCommand (i : Instr) : List HostStmt := [wr .cmd (encode i), .poll]

/-- The pseudo-instruction of a command, on the operands `a` and `b` its form reads (30_encoding.md R67): the operand writes,
the command, the poll, and the reads of its results. -/
def pseudo (i : Instr) (a b : Word) : List HostStmt :=
  match i with
  | .nop | .mall => runCommand i
  | .gmul | .affine => wr .opa a :: wr .opb b :: runCommand i ++ [rd .res0]
  | .sbuild => wr .opa a :: runCommand i
  | .ssearch | .mbij | .mnl | .msac | .mdu | .mlb | .mdeg | .mfp => runCommand i ++ [rd .res0]
  | .ginv | .gdbl | .slookup | .ctl2 | .ctl3 => wr .opa a :: runCommand i ++ [rd .res0]
  | .mixct | .xtime4 | .rotb | .mixbs => wr .opa a :: runCommand i ++ [rd .res0]
  | .mixchk => wr .opa a :: runCommand i ++ [rd .res0, rd .res1]

/-- `ack`: `wr CTRL, 0x2`, or `wr CTRL, 0x6` "to keep IE = 1" (30_encoding.md R67). -/
def pseudoAck (keepIe : Bool) : List HostStmt := [wr .ctrl (if keepIe then 0x6 else 0x2)]

/-- `srst`: `wr CTRL, 0x1` (30_encoding.md R67). -/
def pseudoSrst : List HostStmt := [wr .ctrl 0x1]

end Sys2Proof.Machine
end

