-- ==== Sys2Proof/Machine/Step.lean ====
section
/-! DEFINITION. One step of the machine: the agent whose turn it is moves (20_memory.md R51). -/

namespace Sys2Proof.Machine

/-- One step: the next turn is taken (20_memory.md R51; 40_command.md R71). -/
def step (s : State) : Host.Outcome State Fault Refusal := takeTurn (nextTurn s).1 (nextTurn s).2

/-- The state in which the very next step runs the command word `w` (of `nbits` bits, the bits above them 0): the word is
the accepted pending command (40_command.md R69; log entry 8). -/
def State.withFetchWord (s : State) (nbits w : Nat) : State := withPending (BitVec.ofNat 32 (w % 2 ^ nbits)) s

end Sys2Proof.Machine
end

