-- ==== Sys2Proof/Safety.lean ====
section
/-! DEFINITION. What counts as a safe run, in the terms the claims use: the invariants of the prose, the end of a run, the
constant-time class. -/

namespace Sys2Proof.Machine

/-- The flags' relations: DONE and BUSY never both 1 (10_state.md R20); BUSY and HALT never both 1 (R14); BUSY, DONE and HALT
each say a command was accepted since the reset, so LOCK = 1 (R19, R21); ERR is 0 while a command is pending (40_command.md
R69), ERR is one of the codes 0 to 5 (60_exceptions.md R137), and ERR = 5 goes with HALT = 1 (R142, R148). -/
abbrev State.FlagsConsistent (s : State) : Prop :=
  (s.busy = true → s.done = false) ∧ (s.busy = true → s.halt = false) ∧ (s.busy = true → s.err = 0) ∧
    (s.busy = true → s.lock = true) ∧ (s.done = true → s.lock = true) ∧ (s.halt = true → s.lock = true) ∧
    s.err.toNat ≤ 5 ∧ (s.err = 5 ↔ s.halt = true)

/-- SVALID = 1 means "T equals build(CONST) under the locked configuration" (10_state.md R33). -/
abbrev State.TableMatchesConst (s : State) : Prop :=
  s.svalid = true → s.lock = true ∧ s.t = build s.mlo s.seed s.sconst

/-- Every metric register holds 0, its reset value, or a value of its range (10_state.md R34; 44_metrics.md R120). -/
abbrev State.MetricsInRange (s : State) : Prop :=
  s.metBij.toNat ≤ 256 ∧ s.metNl.toNat ≤ 128 ∧ s.metSac.toNat ≤ 16384 ∧
    (s.metDu.toNat ≤ 256 ∧ s.metDu.toNat % 2 = 0) ∧ s.metLb.toNat ≤ 128 ∧ s.metDeg.toNat ≤ 8 ∧ s.metFp.toNat ≤ 256

/-- The invariant of the machine. -/
abbrev State.Inv (s : State) : Prop := s.FlagsConsistent ∧ s.TableMatchesConst ∧ s.MetricsInRange

/-- Whether a host statement makes a transaction: `wait_irq` makes none (30_encoding.md R65). -/
def HostStmt.isTransaction : HostStmt → Bool
  | .read _ _ => true
  | .write _ _ _ => true
  | .poll => true
  | .waitIrq => false

/-- "A host program run on GF8CORE ends when the host has issued its last transaction and R.STATUS.BUSY = 0": no statement
left makes a transaction (40_command.md R79). -/
def State.finished (s : State) : Bool := s.host.all (fun h => !h.isTransaction) && !s.busy

/-- A run that no bus ERROR stops within k steps (20_memory.md R46). -/
def State.SafeFor (k : Nat) (s : State) : Prop := ∃ s', core.run k s = .next s'

/-- The constant-time class (70_reset_and_hazards.md R162): an obligation on the implementation's time, which this model
does not have (log entry 9). -/
def constantTime : Instr → Bool
  | .slookup | .ctl2 | .ctl3 | .mixct | .xtime4 | .rotb | .mixbs | .mixchk => true
  | .nop | .gmul | .ginv | .gdbl | .affine | .sbuild | .ssearch => false
  | .mbij | .mnl | .msac | .mdu | .mlb | .mdeg | .mfp | .mall => false

end Sys2Proof.Machine
end

