-- ==== Sys2Proof/Certificates/Slice0/Obligations.lean ====
section
/-! DEFINITION. The statements for the provers, from the numbered rules of spec/ file by file. A statement about a free value
(an unspecified table or read) says only that there is one: it holds for every value. -/

open Sys2Proof Sys2Proof.Machine

/-! ## Vocabulary of the statements -/

/-- The polynomial over GF(2) that a byte represents: "bit k is the coefficient of x^k" (00_scope.md R8). -/
noncomputable def Sys2Proof.bytePoly (a : Byte) : Polynomial (ZMod 2) :=
  ∑ k ∈ Finset.range 8, if a.getLsbD k then Polynomial.X ^ k else 0

/-- The modulus polynomial `M = {1, R.MOD.MLO}` (10_state.md R25; 41_field.md R80). -/
noncomputable def Sys2Proof.modulusPoly (mlo : Byte) : Polynomial (ZMod 2) := Polynomial.X ^ 8 + bytePoly mlo

/-- M is irreducible: it is no product of two polynomials of degree at least 1 (bytes above 1; each factor has degree at
most 7). -/
def Sys2Proof.IrreducibleModulus (mlo : Byte) : Prop :=
  ∀ f g : Byte, 1 < f.toNat → 1 < g.toNat → clmul f g ≠ modulus16 mlo

/-- `a^n` taken with `mul` (41_field.md R84). -/
def Sys2Proof.fieldPow (mlo a : Byte) : Nat → Byte
  | 0 => 1
  | n + 1 => mul mlo a (fieldPow mlo a n)

/-- The number of 1 bits of a byte. -/
def Sys2Proof.bitWeight (v : Byte) : Nat := ((Finset.range 8).filter fun k => v.getLsbD k).card

/-- The size of one bucket of the difference histogram (44_metrics.md R111). -/
def Sys2Proof.bucketSize (t : Table) (dx dy : Byte) : Nat :=
  (Finset.univ.filter fun x : Byte => Indexed.at t x ^^^ Indexed.at t (x ^^^ dx) = dy).card

/-- The sum of ±1 products of input mask a and output mask u (44_metrics.md R113). -/
def Sys2Proof.correlationSum (t : Table) (a u : Byte) : Int :=
  ∑ x : Byte, (-1) ^ (bitWeight (a &&& x) + bitWeight (u &&& Indexed.at t x))

/-- The coefficient of monomial m in the algebraic normal form of output bit k: the XOR of that output bit over the inputs
whose 1 bits are all 1 bits of m (44_metrics.md R115, the Möbius/XOR transform). -/
def Sys2Proof.HasMonomial (t : Table) (k : Nat) (m : Byte) : Prop :=
  (Finset.univ.filter fun x : Byte => x &&& m = x ∧ (Indexed.at t x).getLsbD k = true).card % 2 = 1

/-- The events that reset the block in a turn u of state s: the reset input, or the host's CTRL write with bit 0 set
(70_reset_and_hazards.md R152). -/
def Sys2Proof.ResetEvent (u : Turn) (s : State) : Prop :=
  u = .rst ∨ (u = .host ∧ ∃ w rest, s.host = .write 0x004 4 w :: rest ∧ w.getLsbD 0 = true)

/-- The table of 95_test_vectors.md V-S1, row by row. -/
def Sys2Proof.aesSbox : List Byte :=
  [0x63, 0x7C, 0x77, 0x7B, 0xF2, 0x6B, 0x6F, 0xC5, 0x30, 0x01, 0x67, 0x2B, 0xFE, 0xD7, 0xAB, 0x76] ++
  [0xCA, 0x82, 0xC9, 0x7D, 0xFA, 0x59, 0x47, 0xF0, 0xAD, 0xD4, 0xA2, 0xAF, 0x9C, 0xA4, 0x72, 0xC0] ++
  [0xB7, 0xFD, 0x93, 0x26, 0x36, 0x3F, 0xF7, 0xCC, 0x34, 0xA5, 0xE5, 0xF1, 0x71, 0xD8, 0x31, 0x15] ++
  [0x04, 0xC7, 0x23, 0xC3, 0x18, 0x96, 0x05, 0x9A, 0x07, 0x12, 0x80, 0xE2, 0xEB, 0x27, 0xB2, 0x75] ++
  [0x09, 0x83, 0x2C, 0x1A, 0x1B, 0x6E, 0x5A, 0xA0, 0x52, 0x3B, 0xD6, 0xB3, 0x29, 0xE3, 0x2F, 0x84] ++
  [0x53, 0xD1, 0x00, 0xED, 0x20, 0xFC, 0xB1, 0x5B, 0x6A, 0xCB, 0xBE, 0x39, 0x4A, 0x4C, 0x58, 0xCF] ++
  [0xD0, 0xEF, 0xAA, 0xFB, 0x43, 0x4D, 0x33, 0x85, 0x45, 0xF9, 0x02, 0x7F, 0x50, 0x3C, 0x9F, 0xA8] ++
  [0x51, 0xA3, 0x40, 0x8F, 0x92, 0x9D, 0x38, 0xF5, 0xBC, 0xB6, 0xDA, 0x21, 0x10, 0xFF, 0xF3, 0xD2] ++
  [0xCD, 0x0C, 0x13, 0xEC, 0x5F, 0x97, 0x44, 0x17, 0xC4, 0xA7, 0x7E, 0x3D, 0x64, 0x5D, 0x19, 0x73] ++
  [0x60, 0x81, 0x4F, 0xDC, 0x22, 0x2A, 0x90, 0x88, 0x46, 0xEE, 0xB8, 0x14, 0xDE, 0x5E, 0x0B, 0xDB] ++
  [0xE0, 0x32, 0x3A, 0x0A, 0x49, 0x06, 0x24, 0x5C, 0xC2, 0xD3, 0xAC, 0x62, 0x91, 0x95, 0xE4, 0x79] ++
  [0xE7, 0xC8, 0x37, 0x6D, 0x8D, 0xD5, 0x4E, 0xA9, 0x6C, 0x56, 0xF4, 0xEA, 0x65, 0x7A, 0xAE, 0x08] ++
  [0xBA, 0x78, 0x25, 0x2E, 0x1C, 0xA6, 0xB4, 0xC6, 0xE8, 0xDD, 0x74, 0x1F, 0x4B, 0xBD, 0x8B, 0x8A] ++
  [0x70, 0x3E, 0xB5, 0x66, 0x48, 0x03, 0xF6, 0x0E, 0x61, 0x35, 0x57, 0xB9, 0x86, 0xC1, 0x1D, 0x9E] ++
  [0xE1, 0xF8, 0x98, 0x11, 0x69, 0xD9, 0x8E, 0x94, 0x9B, 0x1E, 0x87, 0xE9, 0xCE, 0x55, 0x28, 0xDF] ++
  [0x8C, 0xA1, 0x89, 0x0D, 0xBF, 0xE6, 0x42, 0x68, 0x41, 0x99, 0x2D, 0x0F, 0xB0, 0x54, 0xBB, 0x16]

/-! ## Encoding (30_encoding.md) -/

/-- A word decodes to a command exactly when it is that command's encoding: no bit is dropped, and no other word is legal
(30_encoding.md section 3, R61: "Each command word is `zext_32(OPC)`"). -/
def Obligations.DecodeInvertsEncode : Prop :=
  ∀ (w : Word) (i : Instr), decode w = .ok i ↔ w = encode i

/-- Rules R59 and R138: the decoder accepts exactly the words with RSV = 0 and a defined OPC, and the completion of any other
pending word reports ERR = 1 and writes nothing beyond BUSY, DONE and ERR. -/
def Obligations.IllegalPendingWordReportsIllegal : Prop :=
  (∀ w : Word, (∃ i, decode w = .ok i) ↔ CommandWord.legal w = true) ∧
  ∀ s : State, s.busy = true → CommandWord.legal s.cmd = false →
    engineTurn s = .next { s with err := 1, busy := false, done := true }

/-- Rule R62: the illegal encodings, by the rule's own ranges; each is accepted like any command word, sets LOCK, and its
completion reports ERR = 1 with no other state change. -/
def Obligations.ReservedEncodingsAreAcceptedThenIllegal : Prop :=
  (∀ w : Word, (∃ e, decode w = .error e) ↔
    (w.toNat ≥ 0x100 ∨ (0x04 ≤ w.toNat ∧ w.toNat ≤ 0x07) ∨ (0x09 ≤ w.toNat ∧ w.toNat ≤ 0x0F) ∨
      (0x13 ≤ w.toNat ∧ w.toNat ≤ 0x1F) ∨ (0x28 ≤ w.toNat ∧ w.toNat ≤ 0x2F) ∨
      (0x37 ≤ w.toNat ∧ w.toNat ≤ 0xFF))) ∧
  ∀ (s : State) (w : Word) (e : DecodeError), decode w = .error e → s.busy = false → s.halt = false →
    memWrite 0x00C 4 w s = (.okay, { s with cmd := w, lock := true, busy := true, done := false, err := 0 }) ∧
    engineTurn { s with cmd := w, lock := true, busy := true, done := false, err := 0 } =
      .next { s with cmd := w, lock := true, busy := false, done := true, err := 1 }

/-- Words written out from the opcode map (30_encoding.md section 3) decode to the commands they stand for, one of each
family; two illegal words are rejected by name. -/
def Obligations.WordsOfTheOpcodeMapDecode : Prop :=
  decode 0x00000000 = .ok .nop ∧ decode 0x00000001 = .ok .gmul ∧ decode 0x00000008 = .ok .affine ∧
  decode 0x00000011 = .ok .ssearch ∧ decode 0x00000027 = .ok .mall ∧ decode 0x00000036 = .ok .mixchk ∧
  decode 0x00000004 = .error .undefinedOpcode ∧ decode 0x00000100 = .error .reservedBits

/-! ## The step, acceptance and completion (40_command.md; 20_memory.md section 5) -/

/-- A step runs the pending command: on the engine's turn, and when the schedule is used up, with the turn taken off the
schedule and nothing else added, a legal word is executed and an illegal one reports ERR = 1 (40_command.md R71; the schedule
and what follows its end are the model's own, log entry 4). A command word placed by `withFetchWord` is what the very next
step runs, whatever the schedule (log entry 8). -/
def Obligations.EngineStepRunsTheDecodedCommand : Prop :=
  (∀ (s : State) (i : Instr) (us : List Turn), s.busy = true → decode s.cmd = .ok i →
    (s.turns = [] → step s = exec i s) ∧
    (s.turns = .engine :: us → step s = exec i { s with turns := us })) ∧
  (∀ (s : State) (e : DecodeError) (us : List Turn), s.busy = true → decode s.cmd = .error e →
    (s.turns = [] → step s = .next { s with err := 1, busy := false, done := true }) ∧
    (s.turns = .engine :: us → step s = .next { s with err := 1, busy := false, done := true, turns := us })) ∧
  ∀ (s : State) (i : Instr),
    step (s.withFetchWord 32 (encode i).toNat) =
      exec i { s with cmd := encode i, lock := true, busy := true, done := false, err := 0 }

/-- The steps that are not a completion: an engine turn with BUSY = 0 is not enabled and changes nothing but the schedule;
with the schedule used up and BUSY = 0 the host moves; with no statement left nothing happens (40_command.md R71;
20_memory.md R51; log entries 4, 5 and 15). Once a run has ended (40_command.md R79) no step but a reset changes the state
record or the trace, and the run stays ended. -/
def Obligations.StepsWithoutCompletion : Prop :=
  (∀ (s : State) (us : List Turn),
    (s.busy = false → s.turns = .engine :: us → step s = .next { s with turns := us }) ∧
    (s.busy = false → s.turns = [] → step s = hostTurn s) ∧
    (s.turns = .host :: us → step s = hostTurn { s with turns := us }) ∧
    (s.host = [] → s.turns = .host :: us → step s = .next { s with turns := us })) ∧
  ∀ s : State, s.finished = true → (nextTurn s).1 ≠ .rst →
    ∃ (us : List Turn) (hs : List HostStmt),
      step s = .next { s with turns := us, host := hs } ∧ { s with turns := us, host := hs }.finished = true

/-- Rule R69: the three branches of a CMD write, for every word, each with the response OKAY. -/
def Obligations.CommandWriteAcceptance : Prop :=
  ∀ (s : State) (w : Word),
    (s.halt = true → memWrite 0x00C 4 w s = (.okay, s)) ∧
    (s.halt = false → s.busy = true → memWrite 0x00C 4 w s = (.okay, { s with busyerr := true })) ∧
    (s.halt = false → s.busy = false →
      memWrite 0x00C 4 w s = (.okay, { s with cmd := w, lock := true, busy := true, done := false, err := 0 }))

/-- Rule R139: a byte operand with bits 31:8 ≠ 0 completes the command with ERR = 2 and writes nothing beyond BUSY, DONE and
ERR; the commands of form B check OPA alone, those of form BB both. -/
def Obligations.OversizedByteOperandReportsOperand : Prop :=
  (∀ i ∈ [Instr.ginv, .gdbl, .sbuild, .slookup, .ctl2, .ctl3, .gmul, .affine], ∀ s : State, 256 ≤ s.opa.toNat →
    exec i s = .next { s with err := 2, busy := false, done := true }) ∧
  (∀ i ∈ [Instr.gmul, .affine], ∀ s : State, 256 ≤ s.opb.toNat →
    exec i s = .next { s with err := 2, busy := false, done := true })

/-- Every command, in every state, executes to a next state, never to a fault or refusal, with BUSY = 0 and DONE = 1, and
leaves LOCK, CMD, OPA, OPB, MOD, SEED, IE, the sticky flags and the host's side unchanged (40_command.md section 2). -/
def Obligations.EveryCommandCompletes : Prop :=
  ∀ (i : Instr) (s : State), ∃ t, exec i s = .next t ∧ t.busy = false ∧ t.done = true ∧ t.lock = s.lock ∧
    t.cmd = s.cmd ∧ t.opa = s.opa ∧ t.opb = s.opb ∧ t.mlo = s.mlo ∧ t.seed = s.seed ∧ t.ie = s.ie ∧
    t.busyerr = s.busyerr ∧ t.cfgerr = s.cfgerr ∧ t.turns = s.turns ∧ t.host = s.host ∧ t.trace = s.trace

/-- "No command can hang the engine: BUSY = 1 always ends in a completion, unless a reset intervenes" (40_command.md
section 2): whatever the schedule, if the host's transactions are served, BUSY is 0 after at most one step more than the
schedule is long (the schedule is the model's own, log entry 4). -/
def Obligations.PendingCommandEnds : Prop :=
  ∀ s : State, s.busy = true → (∀ h ∈ s.host, HostStmt.wf h = true) →
    ∃ k ≤ s.turns.length + 1, ∃ t, core.run k s = .next t ∧ t.busy = false

/-- The inputs of a pending command cannot change, and its outputs are not yet written, until it completes or a reset
discards it (20_memory.md section 5; 40_command.md section 2). -/
def Obligations.PendingCommandIsUndisturbed : Prop :=
  ∀ s s' : State, s.busy = true → step s = .next s' → s'.busy = true →
    s'.cmd = s.cmd ∧ s'.opa = s.opa ∧ s'.opb = s.opb ∧ s'.mlo = s.mlo ∧ s'.seed = s.seed ∧ s'.t = s.t ∧
    s'.res0 = s.res0 ∧ s'.res1 = s.res1 ∧ s'.sconst = s.sconst ∧ s'.svalid = s.svalid ∧ s'.lock = s.lock ∧
    s'.halt = s.halt ∧ s'.metBij = s.metBij ∧ s'.metNl = s.metNl ∧ s'.metSac = s.metSac ∧ s'.metDu = s.metDu ∧
    s'.metLb = s.metLb ∧ s'.metDeg = s.metDeg ∧ s'.metFp = s.metFp

/-! ## NOP and field arithmetic (40_command.md R77; 41_field.md) -/

/-- Rule R77: NOP changes nothing but BUSY and DONE; like every accepted command it sets LOCK; from reset, `nop` (its CMD
write and its completion) leaves STATUS = 0x00000006. -/
def Obligations.NopOnlyCompletes : Prop :=
  decode 0x00000000 = .ok .nop ∧
  (∀ s : State, exec .nop s = .next { s with busy := false, done := true }) ∧
  (∀ s : State, s.busy = false → s.halt = false → (memWrite 0x00C 4 0x00000000 s).2.lock = true) ∧
  (∃ t, engineTurn (memWrite 0x00C 4 0x00000000 State.reset).2 = .next t ∧
    (memRead 0x008 4 t).1 = (0x00000006, .okay))

/-- Rule R85: GMUL writes zext_32(mul(a, b)) to RES0 and nothing else; corner cases and example. -/
def Obligations.GmulWritesProduct : Prop :=
  decode 0x00000001 = .ok .gmul ∧
  (∀ (s : State) (a b : Byte), s.opa = a.setWidth 32 → s.opb = b.setWidth 32 →
    exec .gmul s = .next { s with res0 := (mul s.mlo a b).setWidth 32, busy := false, done := true }) ∧
  (∀ mlo a b : Byte, mul mlo 0 b = 0 ∧ mul mlo a 0 = 0 ∧ mul mlo 1 b = b) ∧
  mul 0x00 0x80 0x80 = 0 ∧ mul 0x1B 0x57 0x83 = 0xC1

/-- GINV writes the inverse; 0 for 0 with no error; 0 and ERR = 4 for a nonzero non-unit; corner cases and example
(41_field.md sections 1 and 2). That a byte with product 1 is the one written rests on the uniqueness of the inverse, the
spec's own inference in section 1 (log entry 10). -/
def Obligations.GinvWritesInverse : Prop :=
  decode 0x00000002 = .ok .ginv ∧
  (∀ (s : State) (a b : Byte), s.opa = a.setWidth 32 → a ≠ 0 → mul s.mlo a b = 1 →
    exec .ginv s = .next { s with res0 := b.setWidth 32, busy := false, done := true }) ∧
  (∀ s : State, s.opa = 0 → exec .ginv s = .next { s with res0 := 0, busy := false, done := true }) ∧
  (∀ (s : State) (a : Byte), s.opa = a.setWidth 32 → a ≠ 0 → (∀ b, mul s.mlo a b ≠ 1) →
    exec .ginv s = .next { s with res0 := 0, err := 4, busy := false, done := true }) ∧
  (∀ s : State, s.opa = 1 → exec .ginv s = .next { s with res0 := 1, busy := false, done := true }) ∧
  (∀ s : State, s.mlo = 0x00 → s.opa = 2 →
    exec .ginv s = .next { s with res0 := 0, err := 4, busy := false, done := true }) ∧
  (∀ s : State, s.mlo = 0x00 → s.opa = 3 →
    exec .ginv s = .next { s with res0 := 0xFF, busy := false, done := true }) ∧
  (∀ s : State, s.mlo = 0x1B → s.opa = 0x53 →
    exec .ginv s = .next { s with res0 := 0xCA, busy := false, done := true })

/-- Rule R87: GDBL writes the doubled byte, a left shift with the modulus' low byte XORed in when the top bit was set, and
nothing else; corner cases and example. -/
def Obligations.GdblWritesDouble : Prop :=
  decode 0x00000003 = .ok .gdbl ∧
  (∀ (s : State) (a : Byte), s.opa = a.setWidth 32 →
    exec .gdbl s =
      .next
        { s with
          res0 := (BitVec.ofNat 8 (2 * a.toNat) ^^^ (if 128 ≤ a.toNat then s.mlo else 0)).setWidth 32
          busy := false
          done := true }) ∧
  (∀ mlo : Byte, dbl mlo 0x80 = mlo ∧ dbl mlo 0x00 = 0x00) ∧
  dbl 0x1B 0xFF = 0xE5 ∧ dbl 0x1B 0x57 = 0xAE

/-- `mul(a, b)` is the remainder of the polynomial product a·b divided by M, for every modulus (41_field.md section 1: "The
result is the remainder of the polynomial product a·b divided by M", the spec's own inference). -/
def Obligations.MulIsPolynomialProductModM : Prop :=
  ∀ mlo a b : Byte, bytePoly (mul mlo a b) = (bytePoly a * bytePoly b) %ₘ modulusPoly mlo

/-- The ring laws of the field functions under every modulus, and dbl(a) = mul(a, 2) (41_field.md section 1, "Laws of the field functions", the
spec's own inference). -/
def Obligations.MulIsACommutativeRing : Prop :=
  ∀ mlo a b c : Byte, mul mlo a b = mul mlo b a ∧ mul mlo (mul mlo a b) c = mul mlo a (mul mlo b c) ∧
    mul mlo a (b ^^^ c) = mul mlo a b ^^^ mul mlo a c ∧ mul mlo a 1 = a ∧ mul mlo a 0 = 0 ∧
    dbl mlo a = mul mlo a 0x02

/-- The laws of the inverse (41_field.md section 1, "Laws of the field functions", the spec's own inference): it is unique,
it is symmetric, and exactly the nonzero bytes with a common factor with M have none. -/
def Obligations.InverseLaws : Prop :=
  (∀ mlo a b : Byte, a ≠ 0 → inv mlo a = (b, true) → mul mlo a b = 1 ∧ inv mlo b = (a, true)) ∧
  (∀ mlo a b : Byte, a ≠ 0 → mul mlo a b = 1 → inv mlo a = (b, true)) ∧
  (∀ mlo a : Byte, a ≠ 0 →
    ((inv mlo a).2 = false ↔
      ∃ d f g : Byte, 1 < d.toNat ∧ clmul d f = a.setWidth 16 ∧ clmul d g = modulus16 mlo))

/-- Under an irreducible modulus every nonzero byte is a unit with inverse a^254 (41_field.md section 1, the spec's own
inference), and under M = 0x100 the power 254 of 3 is not its inverse (section 3). -/
def Obligations.IrreducibleModulusGivesAField : Prop :=
  (∀ mlo a : Byte, IrreducibleModulus mlo → a ≠ 0 → inv mlo a = (fieldPow mlo a 254, true)) ∧
  fieldPow 0x00 0x03 254 = 0x55 ∧ inv 0x00 0x03 = (0xFF, true)

/-! ## Affine transform (42_affine.md) -/

/-- Rule R92: AFFINE writes zext_32(aff(x, C)) to RES0 and nothing else; corner cases and example. -/
def Obligations.AffineWritesTransform : Prop :=
  decode 0x00000008 = .ok .affine ∧
  (∀ (s : State) (x c : Byte), s.opa = x.setWidth 32 → s.opb = c.setWidth 32 →
    exec .affine s = .next { s with res0 := (aff s.seed x c).setWidth 32, busy := false, done := true }) ∧
  (∀ seed x c : Byte, aff seed 0 c = c ∧ aff 0x00 x c = c) ∧
  aff 0xF1 0xFF 0 = 0xFF ∧ aff 0xF1 0x01 0 = 0x1F ∧ aff 0xF1 0xCA 0x63 = 0xED

/-- Output bit i of aff(x, C) is C[i] XOR the sum over j of A[i][j] & x[j] with A[i][j] = V[(j - i) mod
8]; the rows under the reset seed (42_affine.md section 1, in part the spec's own inference). -/
def Obligations.AffineBitsFollowTheCirculantMatrix : Prop :=
  (∀ (seed x c : Byte) (i : Nat), i < 8 →
    (aff seed x c).getLsbD i =
      (c.getLsbD i ^^
        ((List.range 8).countP (fun j => seed.getLsbD ((j + 8 - i) % 8) && x.getLsbD j) % 2 == 1))) ∧
  (∀ (seed : Byte) (i j : Nat), i < 8 → j < 8 → (affineRow seed i).getLsbD j = seed.getLsbD ((j + 8 - i) % 8)) ∧
  (List.range 8).map (affineRow 0xF1) = [0xF1, 0xE3, 0xC7, 0x8F, 0x1F, 0x3E, 0x7C, 0xF8]

/-- The laws of aff (42_affine.md section 3, the spec's own inference): GF(2)-linear up to the constant, and a bijection
exactly when the seed has odd weight. -/
def Obligations.AffineIsBijectiveExactlyForOddSeeds : Prop :=
  (∀ seed x y c : Byte, aff seed (x ^^^ y) 0 = aff seed x 0 ^^^ aff seed y 0 ∧ aff seed x c = aff seed x 0 ^^^ c) ∧
  ∀ seed c : Byte, Function.Bijective (fun x => aff seed x c) ↔ popcount seed % 2 = 1

/-! ## S-box generator (43_sbox.md) -/

/-- Rule R97: SBUILD writes T = build(C), CONST = C, SVALID = 1 and nothing else, for every C; corner cases; under the
reset configuration C = 0x63 gives the AES S-box of 95_test_vectors.md V-S1. -/
def Obligations.SbuildBuildsTheTable : Prop :=
  decode 0x00000010 = .ok .sbuild ∧
  (∀ (s : State) (c : Byte), s.opa = c.setWidth 32 →
    ∃ u : Table,
      exec .sbuild s = .next { s with t := u, sconst := c, svalid := true, busy := false, done := true } ∧
      ∀ x, Indexed.at u x = aff s.seed (inv s.mlo x).1 c) ∧
  (∀ mlo seed : Byte, Indexed.at (build mlo seed 0) 0 = 0) ∧
  (∀ mlo seed c x : Byte, (∀ b, mul mlo x b ≠ 1) → Indexed.at (build mlo seed c) x = c) ∧
  (build 0x1B 0xF1 0x63).toList = aesSbox

/-- Rule R95: valid(U) says that U is a bijection with no fixed point; BIJ counts the distinct outputs (44_metrics.md
section 2) and FP the fixed points (section 8). -/
def Obligations.ValidMeansBijectionWithoutFixedPoint : Prop :=
  ∀ u : Table,
    (validSbox u = true ↔ Function.Bijective (Indexed.at u) ∧ ∀ x, Indexed.at u x ≠ x) ∧
    metricBij u = (Finset.univ.image (Indexed.at u)).card ∧
    metricFp u = (Finset.univ.filter fun x => Indexed.at u x = x).card

/-- SSEARCH (43_sbox.md sections 1 and 2): in every state it completes, either with the least valid constant c (it writes the
table of c, CONST, SVALID and RES0 = c), or, when no constant is valid, with an unspecified table (some u: the statement holds
for every value; the counted draw is the model's, log entry 3), SVALID = 0 and ERR = 3, CONST and RES0 unchanged. 0 is never
the constant found (the spec's own inference in section 2). -/
def Obligations.SsearchTakesTheLeastValidConstant : Prop :=
  decode 0x00000011 = .ok .ssearch ∧
  (∀ s : State,
    (∃ c : Byte, validSbox (build s.mlo s.seed c) = true ∧
      (∀ d : Byte, d.toNat < c.toNat → validSbox (build s.mlo s.seed d) = false) ∧
      exec .ssearch s =
        .next
          { s with
            t := build s.mlo s.seed c
            sconst := c
            svalid := true
            res0 := c.setWidth 32
            busy := false
            done := true }) ∨
    ((∀ c : Byte, validSbox (build s.mlo s.seed c) = false) ∧
      ∃ u : Table,
        exec .ssearch s =
          .next { s with t := u, draws := s.draws + 1, svalid := false, err := 3, busy := false, done := true })) ∧
  ∀ mlo seed : Byte, searchConst mlo seed ≠ some 0

/-- From the reset configuration the search finds 0x05 (43_sbox.md section 2, the example, and section 3, the spec's own
evaluation): RES0 = 5, SCONST = 0x105, T[0x53] = 0x8B. -/
def Obligations.SearchFromResetFindsFive : Prop :=
  ∃ t, exec .ssearch State.reset = .next t ∧ t.res0 = 0x00000005 ∧ regValue .sconst t = 0x00000105 ∧
    Indexed.at t.t 0x53 = 0x8B ∧ Indexed.at t.t 0x00 = 0x05

/-- The laws of the generator (43_sbox.md section 3, the spec's own inference): the constant only shifts the table; an
irreducible modulus and an odd seed make every build a bijection; a reducible modulus or an even seed make every search
fail; what the search finds is the least valid constant; and it finds none exactly when the builds are no bijections or
every constant has a fixed point, c = build(0)[x] ^ x for some x. -/
def Obligations.SearchFailsExactlyWithoutAValidConstant : Prop :=
  (∀ mlo seed c x : Byte, Indexed.at (build mlo seed c) 0 = c ∧
    Indexed.at (build mlo seed c) x = Indexed.at (build mlo seed 0) x ^^^ c) ∧
  (∀ mlo seed c : Byte, IrreducibleModulus mlo → popcount seed % 2 = 1 →
    Function.Bijective (Indexed.at (build mlo seed c))) ∧
  (∀ mlo seed : Byte, ¬ IrreducibleModulus mlo → searchConst mlo seed = none) ∧
  (∀ mlo seed : Byte, popcount seed % 2 = 0 → searchConst mlo seed = none) ∧
  (∀ mlo seed c : Byte, searchConst mlo seed = some c ↔
    validSbox (build mlo seed c) = true ∧ ∀ d : Byte, d.toNat < c.toNat → validSbox (build mlo seed d) = false) ∧
  ∀ mlo seed : Byte, searchConst mlo seed = none ↔
    ¬ Function.Bijective (Indexed.at (build mlo seed 0)) ∨ ∀ c : Byte, ∃ x, Indexed.at (build mlo seed 0) x ^^^ x = c

/-- `ct_lookup(tab, idx)` scans the whole table and its value is `tab[idx]` (45_mixcolumns.md section 1, the spec's own
inference). -/
def Obligations.MaskedScanIsIndexing : Prop :=
  ∀ (tab : Table) (idx : Byte), ctLookup tab idx = Indexed.at tab idx

/-- SLOOKUP writes zext_32(T[a]) to RES0 and nothing else, whatever SVALID is; CTL2 and CTL3 write the double and the triple
of a, CTL2 the value of GDBL (43_sbox.md section 2; 45_mixcolumns.md section 1). -/
def Obligations.LookupCommandsWriteTheEntry : Prop :=
  ∀ (s : State) (a : Byte), s.opa = a.setWidth 32 →
    exec .slookup s = .next { s with res0 := (Indexed.at s.t a).setWidth 32, busy := false, done := true } ∧
    exec .ctl2 s = .next { s with res0 := (mul s.mlo a 2).setWidth 32, busy := false, done := true } ∧
    exec .ctl3 s = .next { s with res0 := (mul s.mlo a 3).setWidth 32, busy := false, done := true } ∧
    exec .ctl2 s = exec .gdbl s

/-! ## Property evaluator (44_metrics.md) -/

/-- Each single metric command writes the metric to its metric register and to RES0, narrowed to that register's own width,
and nothing else, on every table; MALL writes the seven metric registers with the values of the single commands and leaves RES0
unchanged (44_metrics.md sections 1 to 9). The narrowing is the model's (log entry 17); that it loses nothing is the spec's
own inference in section 10, which MetricRangesFitTheirRegisters states. -/
def Obligations.MetricCommandsReport : Prop :=
  ∀ s : State,
    exec .mbij s =
      .next { s with metBij := .ofNat 9 (metricBij s.t), res0 := .ofNat 32 (metricBij s.t), busy := false, done := true } ∧
    exec .mnl s =
      .next { s with metNl := .ofInt 8 (metricNl s.t), res0 := .ofInt 32 (metricNl s.t), busy := false, done := true } ∧
    exec .msac s =
      .next { s with metSac := .ofNat 15 (metricSac s.t), res0 := .ofNat 32 (metricSac s.t), busy := false, done := true } ∧
    exec .mdu s =
      .next { s with metDu := .ofNat 9 (metricDu s.t), res0 := .ofNat 32 (metricDu s.t), busy := false, done := true } ∧
    exec .mlb s =
      .next { s with metLb := .ofNat 8 (metricLb s.t), res0 := .ofNat 32 (metricLb s.t), busy := false, done := true } ∧
    exec .mdeg s =
      .next { s with metDeg := .ofNat 4 (metricDeg s.t), res0 := .ofNat 32 (metricDeg s.t), busy := false, done := true } ∧
    exec .mfp s =
      .next { s with metFp := .ofNat 9 (metricFp s.t), res0 := .ofNat 32 (metricFp s.t), busy := false, done := true } ∧
    decode 0x20 = .ok .mbij ∧ decode 0x21 = .ok .mnl ∧ decode 0x22 = .ok .msac ∧ decode 0x23 = .ok .mdu ∧
    decode 0x24 = .ok .mlb ∧ decode 0x25 = .ok .mdeg ∧ decode 0x26 = .ok .mfp ∧ decode 0x27 = .ok .mall ∧
    exec .mall s =
      .next
        { s with
          metBij := .ofNat 9 (metricBij s.t)
          metNl := .ofInt 8 (metricNl s.t)
          metSac := .ofNat 15 (metricSac s.t)
          metDu := .ofNat 9 (metricDu s.t)
          metLb := .ofNat 8 (metricLb s.t)
          metDeg := .ofNat 4 (metricDeg s.t)
          metFp := .ofNat 9 (metricFp s.t)
          busy := false
          done := true }

/-- The value ranges of the metrics on every table, each of which fits its register (44_metrics.md section 10, the spec's
own inference). -/
def Obligations.MetricRangesFitTheirRegisters : Prop :=
  ∀ t : Table,
    (1 ≤ metricBij t ∧ metricBij t ≤ 256) ∧ (0 ≤ metricNl t ∧ metricNl t ≤ 128) ∧ metricSac t ≤ 16384 ∧
    (2 ≤ metricDu t ∧ metricDu t ≤ 256 ∧ metricDu t % 2 = 0) ∧ metricLb t ≤ 128 ∧ metricDeg t ≤ 8 ∧
    metricFp t ≤ 256 ∧
    (BitVec.ofNat 9 (metricBij t)).toNat = metricBij t ∧ ((BitVec.ofInt 8 (metricNl t)).toNat : Int) = metricNl t ∧
    (BitVec.ofNat 15 (metricSac t)).toNat = metricSac t ∧ (BitVec.ofNat 9 (metricDu t)).toNat = metricDu t ∧
    (BitVec.ofNat 8 (metricLb t)).toNat = metricLb t ∧ (BitVec.ofNat 4 (metricDeg t)).toNat = metricDeg t ∧
    (BitVec.ofNat 9 (metricFp t)).toNat = metricFp t

/-- Rule R107's butterfly leaves at index a the Walsh sum of the mask u (the spec marks this sentence as general knowledge,
93_implementation_defined.md section 5), every coefficient is even, and NL is the least 128 - |W|/2 over u ≠ 0 and every
a. -/
def Obligations.ButterflyComputesTheWalshSums : Prop :=
  (∀ (t : Table) (u a : Byte),
    Indexed.at (walshHadamard (signTable t u)) a =
      (allBytes.map fun x => sign (parity (Indexed.at t x &&& u) ^^ parity (a &&& x))).sum) ∧
  (∀ (t : Table) (u a : Byte), Indexed.at (walshHadamard (signTable t u)) a % 2 = 0) ∧
  ∀ t : Table,
    (∀ u a : Byte, u ≠ 0 → metricNl t ≤ 128 - (Indexed.at (walshHadamard (signTable t u)) a).natAbs / 2) ∧
    ∃ u a : Byte, u ≠ 0 ∧ metricNl t = 128 - ((Indexed.at (walshHadamard (signTable t u)) a).natAbs / 2 : Nat)

/-- The four metrics that no other statement fixes, on every table, by the formulas of 44_metrics.md: SAC is the sum of the
output bits that differ over every input and flipped input bit (section 4); DU is the greatest bucket over the nonzero input
differences (section 5); LB is half the greatest absolute correlation over the nonzero masks (section 6, whose halving is
exact by the spec's own inference); the transform leaves the coefficients of the algebraic normal form, and DEG is the
greatest weight of a monomial that occurs, 0 if none does (section 7). Then all seven metrics of constant tables and of the
identity table (the corner cases of sections 2 to 8). -/
def Obligations.MetricsFollowTheirFormulas : Prop :=
  (∀ t : Table, metricSac t =
    ∑ x : Byte, ∑ i ∈ Finset.range 8, bitWeight (Indexed.at t x ^^^ Indexed.at t (x ^^^ (1#8 <<< i)))) ∧
  (∀ t : Table, (∀ dx dy : Byte, dx ≠ 0 → bucketSize t dx dy ≤ metricDu t) ∧
    ∃ dx dy : Byte, dx ≠ 0 ∧ bucketSize t dx dy = metricDu t) ∧
  (∀ t : Table, (∀ a u : Byte, a ≠ 0 → u ≠ 0 → (correlationSum t a u).natAbs ≤ 2 * metricLb t) ∧
    ∃ a u : Byte, a ≠ 0 ∧ u ≠ 0 ∧ (correlationSum t a u).natAbs = 2 * metricLb t) ∧
  (∀ (t : Table) (k : Nat) (m : Byte), k < 8 → (Indexed.at (anf t k) m = true ↔ HasMonomial t k m)) ∧
  (∀ t : Table, (∀ (k : Nat) (m : Byte), k < 8 → HasMonomial t k m → bitWeight m ≤ metricDeg t) ∧
    (metricDeg t = 0 ∨ ∃ (k : Nat) (m : Byte), k < 8 ∧ HasMonomial t k m ∧ bitWeight m = metricDeg t)) ∧
  (∀ (t : Table) (c : Byte), (∀ x, Indexed.at t x = c) →
    metricBij t = 1 ∧ metricNl t = 0 ∧ metricSac t = 0 ∧ metricDu t = 256 ∧ metricLb t = 0 ∧ metricDeg t = 0 ∧
      metricFp t = 1) ∧
  (∀ t : Table, (∀ x, Indexed.at t x = x) →
    metricBij t = 256 ∧ metricNl t = 0 ∧ metricSac t = 2048 ∧ metricDu t = 256 ∧ metricLb t = 128 ∧
      metricDeg t = 1 ∧ metricFp t = 256)

/-! ## MixColumns (45_mixcolumns.md) -/

/-- The MixColumns commands each write RES0 alone, on every word OPA: MIXCT the table form, XTIME4 the packed doubling, ROTB
the rotation, MIXBS the bit-sliced form; the source's example maps to 0xBCA14D8E (45_mixcolumns.md sections 1 and 2). -/
def Obligations.MixColumnsCommandsWriteRes0 : Prop :=
  (∀ s : State,
    exec .mixct s = .next { s with res0 := mixcolCt s.mlo s.opa, busy := false, done := true } ∧
    exec .xtime4 s = .next { s with res0 := xtime4 s.mlo s.opa, busy := false, done := true } ∧
    exec .rotb s = .next { s with res0 := rotb s.opa, busy := false, done := true } ∧
    exec .mixbs s = .next { s with res0 := mixcolBs s.mlo s.opa, busy := false, done := true }) ∧
  decode 0x32 = .ok .mixct ∧ decode 0x33 = .ok .xtime4 ∧ decode 0x34 = .ok .rotb ∧ decode 0x35 = .ok .mixbs ∧
  mixcolCt 0x1B 0x455313DB = 0xBCA14D8E ∧ mixcolBs 0x1B 0x455313DB = 0xBCA14D8E ∧
  xtime4 0x1B 0x01020380 = 0x0204061B ∧ rotb 0x44332211 = 0x11443322

/-- Lane i of xtime4(w) is the double of lane i, and lane i of rotb(w) is lane i+1 mod 4 (45_mixcolumns.md section 2, the
spec's own inference). -/
def Obligations.PackedDoublingAndRotationByLanes : Prop :=
  ∀ (mlo : Byte) (w : Word) (i : Nat), i < 4 →
    lane i (xtime4 mlo w) = dbl mlo (lane i w) ∧ lane i (rotb w) = lane ((i + 1) % 4) w

/-- Lane r of MIXCT is row r of the circulant matrix (2, 3, 1, 1) applied with the field multiplication, under every modulus
(45_mixcolumns.md section 1). -/
def Obligations.MixctIsTheMatrixProduct : Prop :=
  ∀ (mlo : Byte) (w : Word) (r : Nat), r < 4 →
    lane r (mixcolCt mlo w) =
      mul mlo 2 (lane r w) ^^^ mul mlo 3 (lane ((r + 1) % 4) w) ^^^ lane ((r + 2) % 4) w ^^^ lane ((r + 3) % 4) w

/-- The equivalence theorem: for every modulus and every column the two MixColumns forms agree (45_mixcolumns.md section 3,
the spec's own inference). -/
def Obligations.MixColumnsFormsAgree : Prop :=
  ∀ (mlo : Byte) (w : Word), mixcolBs mlo w = mixcolCt mlo w

/-- MIXCHK stores the common result in RES0 and RES1 and never reports a divergence (45_mixcolumns.md section 3). -/
def Obligations.MixchkNeverDiverges : Prop :=
  decode 0x36 = .ok .mixchk ∧
  ∀ s : State,
    exec .mixchk s =
      .next { s with res0 := mixcolCt s.mlo s.opa, res1 := mixcolCt s.mlo s.opa, busy := false, done := true }

/-! ## Errors, acknowledge, interrupt (60_exceptions.md) -/

/-- Rule R143: while BUSY = 1 a write to CMD, OPA, OPB, MOD, SEED or the S-box window is dropped and sets BUSYERR. -/
def Obligations.WritesWhileBusySetBusyerr : Prop :=
  ∀ (s : State) (w : Word), s.busy = true →
    (s.halt = false → memWrite 0x00C 4 w s = (.okay, { s with busyerr := true })) ∧
    (∀ off ∈ [(0x010 : Offset), 0x014, 0x020, 0x024], memWrite off 4 w s = (.okay, { s with busyerr := true })) ∧
    (∀ k : Nat, k < 64 → memWrite (BitVec.ofNat 12 (0x100 + 4 * k)) 4 w s = (.okay, { s with busyerr := true }))

/-- Rule R144: with BUSY = 0 and LOCK = 1 a write to MOD or SEED is dropped and sets CFGERR. -/
def Obligations.LockedConfigurationWritesSetCfgerr : Prop :=
  ∀ (s : State) (w : Word), s.busy = false → s.lock = true →
    memWrite 0x020 4 w s = (.okay, { s with cfgerr := true }) ∧
    memWrite 0x024 4 w s = (.okay, { s with cfgerr := true })

/-- Rule R148: the acknowledge; with BUSY = 1 (in a state whose flags are consistent) it clears only the sticky flags. The
next accepted command clears ERR, and every other transaction and every completion keeps the sticky flags. -/
def Obligations.AckClearsFlags : Prop :=
  (∀ (s : State) (w : Word), w.getLsbD 0 = false → w.getLsbD 1 = true →
    memWrite 0x004 4 w s =
      (.okay,
        { s with
          done := false
          busyerr := false
          cfgerr := false
          err := if s.halt then s.err else 0
          ie := w.getLsbD 2 })) ∧
  (∀ (s : State) (w : Word), w.getLsbD 0 = false → w.getLsbD 1 = true → s.FlagsConsistent → s.busy = true →
    memWrite 0x004 4 w s = (.okay, { s with busyerr := false, cfgerr := false, ie := w.getLsbD 2 })) ∧
  (∀ (s : State) (w : Word), s.busy = false → s.halt = false → (memWrite 0x00C 4 w s).2.err = 0) ∧
  (∀ (s : State) (off : Offset) (n : Nat) (w : Word), off ≠ 0x004 →
    (s.busyerr = true → (memWrite off n w s).2.busyerr = true) ∧
    (s.cfgerr = true → (memWrite off n w s).2.cfgerr = true)) ∧
  ∀ s t : State, engineTurn s = .next t → t.busyerr = s.busyerr ∧ t.cfgerr = s.cfgerr

/-- Rule R149: irq is the DONE bit of STATUS and the IE bit of CTRL; every completion, with an error or not, raises it where
IE = 1; no other event does, since no bus transaction, no turn of the host and no reset sets DONE; acknowledge, acceptance,
IE = 0 and reset clear it; a CTRL write with bits 0 and 1 clear changes only IE. -/
def Obligations.InterruptFollowsDoneAndEnable : Prop :=
  (∀ s : State, irq s = true ↔ (regValue .status s).getLsbD 1 = true ∧ (regValue .ctrl s).getLsbD 2 = true) ∧
  (∀ s t : State, s.busy = true → engineTurn s = .next t → irq t = s.ie) ∧
  (∀ (s : State) (off : Offset) (n : Nat) (w : Word), s.done = false →
    (memRead off n s).2.done = false ∧ (memWrite off n w s).2.done = false) ∧
  (∀ s t : State, s.done = false → hostTurn s = .next t → t.done = false ∧ irq t = false) ∧
  (∀ s t : State, s.busy = false → engineTurn s = .next t → irq t = irq s) ∧
  (∀ (s : State) (w : Word), w.getLsbD 0 = false → w.getLsbD 1 = false →
    memWrite 0x004 4 w s = (.okay, { s with ie := w.getLsbD 2 })) ∧
  (∀ (s : State) (w : Word), w.getLsbD 0 = true ∨ w.getLsbD 1 = true ∨ w.getLsbD 2 = false →
    irq (memWrite 0x004 4 w s).2 = false) ∧
  (∀ (s : State) (w : Word), s.busy = false → s.halt = false → irq (memWrite 0x00C 4 w s).2 = false) ∧
  ∀ s t : State, takeTurn .rst s = .next t → irq t = false

/-- HALT = 1 is fatal until a reset (60_exceptions.md section 1; 10_state.md section 3): CMD writes are ignored, the
acknowledge leaves ERR, and every step but a reset keeps HALT = 1 and, where the flags are consistent, ERR; a reset clears
both (which agent has the turn is the model's schedule, log entry 4). -/
def Obligations.HaltLastsUntilReset : Prop :=
  ∀ s : State, s.halt = true →
    (∀ w : Word, memWrite 0x00C 4 w s = (.okay, s)) ∧
    (∀ w : Word, w.getLsbD 0 = false → (memWrite 0x004 4 w s).2.err = s.err) ∧
    ∀ s', step s = .next s' →
      (¬ ResetEvent (nextTurn s).1 s → s'.halt = true ∧ (s.FlagsConsistent → s'.err = s.err)) ∧
      (ResetEvent (nextTurn s).1 s → s'.halt = false ∧ s'.lock = false ∧ s'.busy = false ∧ s'.err = 0)

/-! ## The window (20_memory.md; 10_state.md) -/

/-- Rules R46 and R145: a transaction of size ≠ 4 or at a misaligned offset is answered ERROR with rdata = 0 and changes
nothing; the host's step faults. -/
def Obligations.UnservedTransactionsAreBusErrors : Prop :=
  ∀ (s : State) (off : Offset) (n : Nat) (w : Word), n ≠ 4 ∨ off.toNat % 4 ≠ 0 →
    memRead off n s = ((0, .error), s) ∧ memWrite off n w s = (.error, s) ∧
    (∀ rest, s.host = .read off n :: rest → hostTurn s = .fault (.busError off)) ∧
    (∀ rest, s.host = .write off n w :: rest → hostTurn s = .fault (.busError off))

/-- Rule R44: a reserved offset reads 0, and a write to it is ignored with the response OKAY. -/
def Obligations.ReservedOffsetsReadZeroIgnoreWrites : Prop :=
  ∀ (s : State) (off : Offset) (w : Word), off.toNat % 4 = 0 →
    (0x034 ≤ off.toNat ∧ off.toNat ≤ 0x03C) ∨ (0x05C ≤ off.toNat ∧ off.toNat ≤ 0x0FC) ∨ 0x200 ≤ off.toNat →
    memRead off 4 s = ((0, .okay), s) ∧ memWrite off 4 w s = (.okay, s)

/-- Every served transaction is answered OKAY, whatever BUSY is, and a read changes nothing but the model's count of draws;
while BUSY = 0 it changes nothing at all (20_memory.md section 3; 70_reset_and_hazards.md section 4). -/
def Obligations.ServedReadsHaveNoSideEffect : Prop :=
  ∀ (s : State) (off : Offset) (w : Word), off.toNat % 4 = 0 →
    (memRead off 4 s).1.2 = .okay ∧ (memWrite off 4 w s).1 = .okay ∧
    (memRead off 4 s).2 = { s with draws := (memRead off 4 s).2.draws } ∧
    (s.busy = false → (memRead off 4 s).2 = s)

/-- The S-box window (20_memory.md section 4): a read and a write of each word, entries outside the written word keep their
values, and LOCK does not guard it. A read while BUSY = 1 answers some value, for every free value; that it counts one draw
is the model's (log entry 2). -/
def Obligations.SboxWindowReadsAndWrites : Prop :=
  ∀ (s : State) (k : Fin 64) (w : Word),
    (s.busy = false →
      memRead (BitVec.ofNat 12 (0x100 + 4 * k.val)) 4 s =
        ((pack s.t[4 * k.val] s.t[4 * k.val + 1] s.t[4 * k.val + 2] s.t[4 * k.val + 3], .okay), s)) ∧
    (s.busy = true → ∃ v : Word,
      memRead (BitVec.ofNat 12 (0x100 + 4 * k.val)) 4 s = ((v, .okay), { s with draws := s.draws + 1 })) ∧
    (s.busy = false → ∃ u : Table,
      memWrite (BitVec.ofNat 12 (0x100 + 4 * k.val)) 4 w s = (.okay, { s with t := u, svalid := false }) ∧
      u[4 * k.val] = lane 0 w ∧ u[4 * k.val + 1] = lane 1 w ∧ u[4 * k.val + 2] = lane 2 w ∧
      u[4 * k.val + 3] = lane 3 w ∧
      ∀ j : Fin 256, j.val / 4 ≠ k.val → u[j.val] = s.t[j.val]) ∧
    (s.busy = true →
      memWrite (BitVec.ofNat 12 (0x100 + 4 * k.val)) 4 w s = (.okay, { s with busyerr := true })) ∧
    (s.busy = false → k.val = 0 → s.t.toList = aesSbox → (memRead 0x100 4 s).1.1 = 0x7B777C63)

/-- ID reads its constant; AMAT0 and AMAT1 read the rotations of SEED, at reset 0x8FC7E3F1 and 0xF87C3E1F (the spec's own
evaluation); writes to them are ignored (10_state.md sections 2 and 4). -/
def Obligations.IdentityAndMatrixRegisters : Prop :=
  (∀ (s : State) (w : Word),
    memRead 0x000 4 s = ((0x47463801, .okay), s) ∧ memWrite 0x000 4 w s = (.okay, s) ∧
    memWrite 0x028 4 w s = (.okay, s) ∧ memWrite 0x02C 4 w s = (.okay, s)) ∧
  (∀ (s : State) (i : Nat), i < 4 →
    (memRead 0x028 4 s).2 = s ∧ lane i (memRead 0x028 4 s).1.1 = s.seed.rotateLeft i ∧
    (memRead 0x02C 4 s).2 = s ∧ lane i (memRead 0x02C 4 s).1.1 = s.seed.rotateLeft (4 + i)) ∧
  (memRead 0x028 4 State.reset).1.1 = 0x8FC7E3F1 ∧ (memRead 0x02C 4 State.reset).1.1 = 0xF87C3E1F

/-- Rule R24: MOD reads {23'b0, 1, MLO}, at reset 0x11B; a write stores the low byte, subject to BUSY and LOCK. -/
def Obligations.ModRegister : Prop :=
  (∀ s : State, ∃ r : Word, memRead 0x020 4 s = ((r, .okay), s) ∧ r.toNat = 0x100 + s.mlo.toNat) ∧
  (memRead 0x020 4 State.reset).1.1 = 0x0000011B ∧
  (∀ (s : State) (w : Word),
    (s.busy = false → s.lock = false → memWrite 0x020 4 w s = (.okay, { s with mlo := w.extractLsb' 0 8 })) ∧
    (s.busy = true → memWrite 0x020 4 w s = (.okay, { s with busyerr := true })) ∧
    (s.busy = false → s.lock = true → memWrite 0x020 4 w s = (.okay, { s with cfgerr := true })))

/-- CMD, OPA, OPB and SEED: a read returns the register whatever BUSY is; OPA and OPB store the whole word and SEED the low
byte when the write is taken (10_state.md sections 4 and 5). -/
def Obligations.OperandAndSeedRegisters : Prop :=
  ∀ (s : State) (w : Word),
    memRead 0x00C 4 s = ((s.cmd, .okay), s) ∧ memRead 0x010 4 s = ((s.opa, .okay), s) ∧
    memRead 0x014 4 s = ((s.opb, .okay), s) ∧ memRead 0x024 4 s = ((s.seed.setWidth 32, .okay), s) ∧
    (s.busy = false → memWrite 0x010 4 w s = (.okay, { s with opa := w }) ∧
      memWrite 0x014 4 w s = (.okay, { s with opb := w })) ∧
    (s.busy = false → s.lock = false → memWrite 0x024 4 w s = (.okay, { s with seed := w.extractLsb' 0 8 }))

/-- The result registers RES0, RES1, SCONST and the seven metric registers read their fields when BUSY = 0, some value
within their fields when BUSY = 1 (for every free value), and ignore writes always (10_state.md sections 2 and 5; the field
bound on the free value is log entry 2). -/
def Obligations.ResultRegisters : Prop :=
  ∀ (s : State) (w : Word),
    (s.busy = false →
      memRead 0x018 4 s = ((s.res0, .okay), s) ∧ memRead 0x01C 4 s = ((s.res1, .okay), s) ∧
      memRead 0x040 4 s = ((s.metBij.setWidth 32, .okay), s) ∧ memRead 0x044 4 s = ((s.metNl.setWidth 32, .okay), s) ∧
      memRead 0x048 4 s = ((s.metSac.setWidth 32, .okay), s) ∧ memRead 0x04C 4 s = ((s.metDu.setWidth 32, .okay), s) ∧
      memRead 0x050 4 s = ((s.metLb.setWidth 32, .okay), s) ∧ memRead 0x054 4 s = ((s.metDeg.setWidth 32, .okay), s) ∧
      memRead 0x058 4 s = ((s.metFp.setWidth 32, .okay), s) ∧
      ∃ r : Word, memRead 0x030 4 s = ((r, .okay), s) ∧
        r.toNat = s.sconst.toNat + (if s.svalid then 256 else 0)) ∧
    (∀ p ∈ [((0x018 : Offset), 32), (0x01C, 32), (0x030, 9), (0x040, 9), (0x044, 8), (0x048, 15), (0x04C, 9),
        (0x050, 8), (0x054, 4), (0x058, 9)],
      (s.busy = true → ∃ v : Word, v.toNat < 2 ^ p.2 ∧
        memRead p.1 4 s = ((v, .okay), { s with draws := s.draws + 1 })) ∧
      memWrite p.1 4 w s = (.okay, s))

/-- The STATUS and CTRL words bit by bit, reserved bits 0; a write to STATUS is ignored (10_state.md section 3). -/
def Obligations.StatusAndControlLayout : Prop :=
  ∀ (s : State) (w : Word), ∃ v c : Word,
    memRead 0x008 4 s = ((v, .okay), s) ∧ memRead 0x004 4 s = ((c, .okay), s) ∧ memWrite 0x008 4 w s = (.okay, s) ∧
    v.getLsbD 0 = s.busy ∧ v.getLsbD 1 = s.done ∧ v.getLsbD 2 = s.lock ∧ v.getLsbD 3 = s.halt ∧
    v.getLsbD 4 = s.busyerr ∧ v.getLsbD 5 = s.cfgerr ∧ v.extractLsb' 6 2 = 0 ∧ v.extractLsb' 8 4 = s.err ∧
    v.extractLsb' 12 20 = 0 ∧ c.getLsbD 2 = s.ie ∧ c.extractLsb' 0 2 = 0 ∧ c.extractLsb' 3 29 = 0

/-- The host's statements: `rd` and `wr` make one transaction and record it; `poll` reads STATUS and stays while BUSY = 1;
`wait_irq` makes no transaction and stays while irq = 0; the pseudo-instruction of every command, `ack` and `srst` expand as
the rule's table says (30_encoding.md section 5; the list of statements and the trace are the model's own, log entry 5; that
`wait_irq` with IE = 0 stays is log entry 12, and that a turn of `poll` is one read is log entry 16). -/
def Obligations.HostStatementsMakeTheirTransactions : Prop :=
  (∀ (s : State) (rest : List HostStmt),
    (∀ off : Offset, off.toNat % 4 = 0 → s.host = .read off 4 :: rest →
      ∃ (v : Word) (s' : State), memRead off 4 s = ((v, .okay), s') ∧
        hostTurn s = .next { s' with host := rest, trace := .readBack off v :: s.trace }) ∧
    (∀ (off : Offset) (w : Word), off.toNat % 4 = 0 → s.host = .write off 4 w :: rest →
      hostTurn s = .next { (memWrite off 4 w s).2 with host := rest, trace := .wrote off w :: s.trace }) ∧
    (s.host = .poll :: rest → s.busy = true →
      hostTurn s = .next { s with trace := .readBack 0x008 (statusWord s) :: s.trace }) ∧
    (s.host = .poll :: rest → s.busy = false →
      hostTurn s = .next { s with host := rest, trace := .readBack 0x008 (statusWord s) :: s.trace }) ∧
    (s.host = .waitIrq :: rest → irq s = true → hostTurn s = .next { s with host := rest }) ∧
    (s.host = .waitIrq :: rest → irq s = false → hostTurn s = .next s)) ∧
  (∀ a b : Word,
    (∀ i ∈ [Instr.nop, .mall], pseudo i a b = [.write 0x00C 4 (encode i), .poll]) ∧
    (∀ i ∈ [Instr.gmul, .affine], pseudo i a b =
      [.write 0x010 4 a, .write 0x014 4 b, .write 0x00C 4 (encode i), .poll, .read 0x018 4]) ∧
    pseudo .sbuild a b = [.write 0x010 4 a, .write 0x00C 4 0x10, .poll] ∧
    (∀ i ∈ [Instr.ssearch, .mbij, .mnl, .msac, .mdu, .mlb, .mdeg, .mfp],
      pseudo i a b = [.write 0x00C 4 (encode i), .poll, .read 0x018 4]) ∧
    (∀ i ∈ [Instr.ginv, .gdbl, .slookup, .ctl2, .ctl3, .mixct, .xtime4, .rotb, .mixbs],
      pseudo i a b = [.write 0x010 4 a, .write 0x00C 4 (encode i), .poll, .read 0x018 4]) ∧
    pseudo .mixchk a b = [.write 0x010 4 a, .write 0x00C 4 0x36, .poll, .read 0x018 4, .read 0x01C 4]) ∧
  pseudoAck false = [.write 0x004 4 0x2] ∧ pseudoAck true = [.write 0x004 4 0x6] ∧ pseudoSrst = [.write 0x004 4 0x1]

/-! ## Reset (70_reset_and_hazards.md) -/

/-- A soft reset (a CTRL write with bit 0 set, whatever its other bits) and a hardware reset set every field of the record to
its reset value, T to an unspecified table (some u), whatever was pending; CTRL's SRST reads 0, and the other CTRL writes do
what the rule says (70_reset_and_hazards.md section 1). That a reset counts one draw and keeps the schedule, the host's
statements and the trace is the model's choice (log entries 1 and 13), as is the turn that stands for the reset input (log
entry 4). -/
def Obligations.BothResetsRestoreEveryField : Prop :=
  (∀ (s : State) (w : Word), w.getLsbD 0 = true → ∃ u : Table,
    memWrite 0x004 4 w s =
      (.okay,
        { s with
          ie := false, busy := false, done := false, lock := false, halt := false, busyerr := false, cfgerr := false
          err := 0, cmd := 0, opa := 0, opb := 0, res0 := 0, res1 := 0, mlo := 0x1B, seed := 0xF1
          sconst := 0, svalid := false, metBij := 0, metNl := 0, metSac := 0, metDu := 0, metLb := 0
          metDeg := 0, metFp := 0, t := u, draws := s.draws + 1 })) ∧
  (∀ (s : State) (us : List Turn), s.turns = .rst :: us → ∃ u : Table,
    step s =
      .next
        { s with
          ie := false, busy := false, done := false, lock := false, halt := false, busyerr := false, cfgerr := false
          err := 0, cmd := 0, opa := 0, opb := 0, res0 := 0, res1 := 0, mlo := 0x1B, seed := 0xF1
          sconst := 0, svalid := false, metBij := 0, metNl := 0, metSac := 0, metDu := 0, metLb := 0
          metDeg := 0, metFp := 0, t := u, draws := s.draws + 1, turns := us }) ∧
  (∀ s : State, (memRead 0x004 4 s).1.1.getLsbD 0 = false) ∧
  (∀ (s : State) (w : Word), w.getLsbD 0 = false →
    (w.getLsbD 1 = false → memWrite 0x004 4 w s = (.okay, { s with ie := w.getLsbD 2 })) ∧
    (w.getLsbD 1 = true → memWrite 0x004 4 w s =
      (.okay,
        { s with
          ie := w.getLsbD 2, done := false, busyerr := false, cfgerr := false, err := if s.halt then s.err else 0 })))

/-- After a reset the engine is IDLE, LOCK = 0, HALT = 0 and IE = 0, STATUS reads 0, MOD 0x11B and SEED 0xF1, and
MOD and SEED are writable (70_reset_and_hazards.md section 1, the spec's own evaluation). -/
def Obligations.StateAfterReset : Prop :=
  engineState State.reset = .idle ∧ State.reset.lock = false ∧ State.reset.halt = false ∧ State.reset.ie = false ∧
  State.reset.busy = false ∧ irq State.reset = false ∧
  (memRead 0x008 4 State.reset).1 = (0x00000000, .okay) ∧ (memRead 0x020 4 State.reset).1 = (0x0000011B, .okay) ∧
  (memRead 0x024 4 State.reset).1 = (0x000000F1, .okay) ∧
  (∀ w : Word, memWrite 0x020 4 w State.reset = (.okay, { State.reset with mlo := w.extractLsb' 0 8 }) ∧
    memWrite 0x024 4 w State.reset = (.okay, { State.reset with seed := w.extractLsb' 0 8 }))

/-! ## Whole-machine invariants (10_state.md; 60_exceptions.md) -/

/-- Rule R21: once LOCK = 1, whichever agent has the turn, MOD and SEED and LOCK are kept, unless the turn is a reset, which
restores the reset configuration; so every step keeps them or leaves the reset configuration. The acceptance of a command
sets LOCK. -/
def Obligations.ConfigurationFrozenWhileLocked : Prop :=
  (∀ (u : Turn) (s s' : State), s.lock = true → takeTurn u s = .next s' →
    (¬ ResetEvent u s → s'.lock = true ∧ s'.mlo = s.mlo ∧ s'.seed = s.seed) ∧
    (ResetEvent u s → s'.lock = false ∧ s'.busy = false ∧ s'.mlo = 0x1B ∧ s'.seed = 0xF1)) ∧
  (∀ s s' : State, s.lock = true → step s = .next s' →
    (s'.lock = true ∧ s'.mlo = s.mlo ∧ s'.seed = s.seed) ∨
    (s'.lock = false ∧ s'.busy = false ∧ s'.mlo = 0x1B ∧ s'.seed = 0xF1)) ∧
  ∀ (s : State) (w : Word), s.busy = false → s.halt = false → (memWrite 0x00C 4 w s).2.lock = true

/-- Every step keeps the invariant: the flags' relations, SVALID's meaning and the metric ranges, from every state that has
them (10_state.md sections 1, 3 and 5; 60_exceptions.md section 1; 44_metrics.md section 10). -/
def Obligations.StepKeepsInvariant : Prop :=
  ∀ s s' : State, s.Inv → step s = .next s' → s'.Inv

/-- The state after reset has the invariant. -/
def Obligations.ResetHasInvariant : Prop := State.reset.Inv

/-- No step of this machine ever halts it: from a state with HALT = 0 every step leads to HALT = 0, and an engine's step to
ERR ≠ 5 (60_exceptions.md section 1: "a conforming implementation never raises DIVERGE", the spec's own inference). -/
def Obligations.MachineNeverHalts : Prop :=
  ∀ s s' : State, s.halt = false → s.err ≠ 5 → step s = .next s' → s'.halt = false ∧ s'.err ≠ 5

/-- The only thing that stops a run is a host transaction that is not served: a step faults exactly when the host moves and
its next statement is an unserved transaction, and no step is refused (20_memory.md section 3; 60_exceptions.md
section 1). -/
def Obligations.OnlyUnservedTransactionsStopARun : Prop :=
  ∀ s : State,
    (∀ r, step s ≠ .refused r) ∧
    ((∃ f, step s = .fault f) ↔
      (nextTurn s).1 = .host ∧ ∃ h rest, s.host = h :: rest ∧ HostStmt.wf h = false)
end

