-- ==== Sys2Proof/Laws/Tables.lean ====
section
/-! SUPPORT. Laws of the 256-entry arrays: every byte is listed once, an array is its entries, a tabulated array has the
entries it was made of, and a write to the S-box window changes four entries. -/

namespace Sys2Proof

@[simp] theorem allBytes_length : allBytes.length = 256 := by simp [allBytes]

theorem mem_allBytes (x : Byte) : x ∈ allBytes := by
  have h := x.isLt
  exact List.mem_map.mpr ⟨x.toNat, List.mem_range.mpr (by omega), by simp⟩

theorem allBytes_nodup : allBytes.Nodup := by
  refine (List.nodup_map_iff_inj_on List.nodup_range).mpr fun a ha b hb h => ?_
  have ha := List.mem_range.mp ha
  have hb := List.mem_range.mp hb
  simpa [Nat.mod_eq_of_lt ha, Nat.mod_eq_of_lt hb] using congrArg BitVec.toNat h

@[simp] theorem at_tabulate {α : Type} (f : Byte → α) (x : Byte) : Indexed.at (Indexed.tabulate f) x = f x := by
  simp [Indexed.at, Indexed.tabulate, allBytes]

/-- Two arrays with the same entries are the same. -/
theorem Indexed.ext_at {α : Type} {t u : Indexed α} (h : ∀ x, Indexed.at t x = Indexed.at u x) : t = u := by
  refine Vector.ext fun i hi => ?_
  have := h (BitVec.ofNat 8 i)
  simpa [Indexed.at, Nat.mod_eq_of_lt hi] using this

@[simp] theorem tabulate_at {α : Type} (t : Indexed α) : Indexed.tabulate (Indexed.at t) = t :=
  Indexed.ext_at fun x => by simp

namespace Machine

@[simp] theorem at_build (mlo seed c x : Byte) : Indexed.at (build mlo seed c) x = aff seed (inv mlo x).1 c := by
  simp [build]

@[simp] theorem at_mul2 (mlo x : Byte) : Indexed.at (mul2 mlo) x = dbl mlo x := by simp [mul2]

@[simp] theorem at_mul3 (mlo x : Byte) : Indexed.at (mul3 mlo) x = dbl mlo x ^^^ x := by simp [mul3]

@[simp] theorem at_signTable (t : Table) (u x : Byte) :
    Indexed.at (signTable t u) x = sign (parity (Indexed.at t x &&& u)) := by simp [signTable]

/-- One butterfly stage, entry by entry (44_metrics.md R107). -/
theorem at_butterflyStage (h : Byte) (f : Indexed Int) (j : Byte) :
    Indexed.at (butterflyStage h f) j =
      if j &&& h = 0 then Indexed.at f j + Indexed.at f (j + h) else Indexed.at f (j - h) - Indexed.at f j := by
  simp [butterflyStage]

/-- One Möbius stage, entry by entry (44_metrics.md R115). -/
theorem at_mobiusStage (i : Nat) (g : Indexed Bool) (m : Byte) :
    Indexed.at (mobiusStage i g) m =
      if m.getLsbD i then Indexed.at g m ^^ Indexed.at g (m ^^^ (1#8 <<< i)) else Indexed.at g m := by
  simp [mobiusStage]

/-- The four entries a window write stores (20_memory.md R50). -/
theorem sboxStore_written (t : Table) (k : Fin 64) (w : Word) :
    (sboxStore t k w)[4 * k.val] = lane 0 w ∧ (sboxStore t k w)[4 * k.val + 1] = lane 1 w ∧
      (sboxStore t k w)[4 * k.val + 2] = lane 2 w ∧ (sboxStore t k w)[4 * k.val + 3] = lane 3 w := by
  simp [sboxStore]

/-- Every entry outside the written word is kept (20_memory.md R50). -/
theorem sboxStore_frame (t : Table) (k : Fin 64) (w : Word) (j : Nat) (hj : j < 256) (h : j / 4 ≠ k.val) :
    (sboxStore t k w)[j] = t[j] := by
  have h0 : 4 * k.val ≠ j := by omega
  have h1 : 4 * k.val + 1 ≠ j := by omega
  have h2 : 4 * k.val + 2 ≠ j := by omega
  have h3 : 4 * k.val + 3 ≠ j := by omega
  simp [sboxStore, h0, h1, h2, h3]

end Machine

end Sys2Proof
end

