-- ==== Sys2Proof/Laws/Field.lean ====
section
/-! SUPPORT. The bits of a byte made of bits (42_affine.md R91), and `mul` in its second argument (41_field.md R81). -/

namespace Sys2Proof.Machine

/-- Bit i of a byte made of bits. -/
theorem getLsbD_byteOfBits (f : Nat → Bool) (i : Nat) (h : i < 8) : (byteOfBits f).getLsbD i = f i := by
  have hb : ∀ b0 b1 b2 b3 b4 b5 b6 b7 : Bool, ∀ k : Fin 8,
      (byteOfBits fun j => [b0, b1, b2, b3, b4, b5, b6, b7].getD j false).getLsbD k.val =
        [b0, b1, b2, b3, b4, b5, b6, b7].getD k.val false := by decide +kernel
  have he : byteOfBits f = byteOfBits fun j => [f 0, f 1, f 2, f 3, f 4, f 5, f 6, f 7].getD j false := rfl
  rw [he, hb _ _ _ _ _ _ _ _ ⟨i, h⟩]
  rcases i with _ | _ | _ | _ | _ | _ | _ | _ | i <;> first | rfl | omega

/-- `mul` adds (XORs) in its second argument, under every modulus. -/
theorem mul_xor_right (m a b c : Byte) : mul m a (b ^^^ c) = mul m a b ^^^ mul m a c := by
  have hstep : ∀ {n : Nat} (x y : Bool) (p q g : BitVec n),
      (if x ^^ y then (p ^^^ q) ^^^ g else p ^^^ q) = (if x then p ^^^ g else p) ^^^ (if y then q ^^^ g else q) := by
    intro n x y p q g
    cases x <;> cases y <;> simp <;> ext <;> simp <;> grind
  have hmul : ∀ (l : List Nat) (p q : BitVec 16),
      l.foldl (fun p i => if (b ^^^ c).getLsbD i then p ^^^ (a.setWidth 16 <<< i) else p) (p ^^^ q) =
        l.foldl (fun p i => if b.getLsbD i then p ^^^ (a.setWidth 16 <<< i) else p) p ^^^
          l.foldl (fun p i => if c.getLsbD i then p ^^^ (a.setWidth 16 <<< i) else p) q := by
    intro l
    induction l with
    | nil => exact fun _ _ => rfl
    | cons i l ih => intro p q; rw [List.foldl_cons, List.foldl_cons, List.foldl_cons, BitVec.getLsbD_xor, hstep, ih]
  have hred : ∀ (l : List Nat) (p q : BitVec 16),
      l.foldl (fun p d => if p.getLsbD d then p ^^^ (modulus16 m <<< (d - 8)) else p) (p ^^^ q) =
        l.foldl (fun p d => if p.getLsbD d then p ^^^ (modulus16 m <<< (d - 8)) else p) p ^^^
          l.foldl (fun p d => if p.getLsbD d then p ^^^ (modulus16 m <<< (d - 8)) else p) q := by
    intro l
    induction l with
    | nil => exact fun _ _ => rfl
    | cons d l ih => intro p q; rw [List.foldl_cons, List.foldl_cons, List.foldl_cons, BitVec.getLsbD_xor, hstep, ih]
  have hc : clmul a (b ^^^ c) = clmul a b ^^^ clmul a c := hmul bitPositions 0 0
  rw [mul, hc, reduce, hred, BitVec.setWidth_xor]
  rfl

end Sys2Proof.Machine
end

