-- ==== Sys2Proof/Laws/State.lean ====
section
/-! SUPPORT. One lemma per field per shared update of the state, each true by computation, so that no proof unfolds an update. -/

namespace Sys2Proof.Machine

/-! ### `setErr`: `SetErr(code)` writes ERR alone (00_scope.md R9). -/

@[simp] theorem setErr_ie (c : ErrCode) (s : State) : (setErr c s).ie = s.ie := rfl
@[simp] theorem setErr_busy (c : ErrCode) (s : State) : (setErr c s).busy = s.busy := rfl
@[simp] theorem setErr_done (c : ErrCode) (s : State) : (setErr c s).done = s.done := rfl
@[simp] theorem setErr_lock (c : ErrCode) (s : State) : (setErr c s).lock = s.lock := rfl
@[simp] theorem setErr_halt (c : ErrCode) (s : State) : (setErr c s).halt = s.halt := rfl
@[simp] theorem setErr_busyerr (c : ErrCode) (s : State) : (setErr c s).busyerr = s.busyerr := rfl
@[simp] theorem setErr_cfgerr (c : ErrCode) (s : State) : (setErr c s).cfgerr = s.cfgerr := rfl
@[simp] theorem setErr_err (c : ErrCode) (s : State) : (setErr c s).err = errCode c := rfl
@[simp] theorem setErr_cmd (c : ErrCode) (s : State) : (setErr c s).cmd = s.cmd := rfl
@[simp] theorem setErr_opa (c : ErrCode) (s : State) : (setErr c s).opa = s.opa := rfl
@[simp] theorem setErr_opb (c : ErrCode) (s : State) : (setErr c s).opb = s.opb := rfl
@[simp] theorem setErr_res0 (c : ErrCode) (s : State) : (setErr c s).res0 = s.res0 := rfl
@[simp] theorem setErr_res1 (c : ErrCode) (s : State) : (setErr c s).res1 = s.res1 := rfl
@[simp] theorem setErr_mlo (c : ErrCode) (s : State) : (setErr c s).mlo = s.mlo := rfl
@[simp] theorem setErr_seed (c : ErrCode) (s : State) : (setErr c s).seed = s.seed := rfl
@[simp] theorem setErr_sconst (c : ErrCode) (s : State) : (setErr c s).sconst = s.sconst := rfl
@[simp] theorem setErr_svalid (c : ErrCode) (s : State) : (setErr c s).svalid = s.svalid := rfl
@[simp] theorem setErr_metBij (c : ErrCode) (s : State) : (setErr c s).metBij = s.metBij := rfl
@[simp] theorem setErr_metNl (c : ErrCode) (s : State) : (setErr c s).metNl = s.metNl := rfl
@[simp] theorem setErr_metSac (c : ErrCode) (s : State) : (setErr c s).metSac = s.metSac := rfl
@[simp] theorem setErr_metDu (c : ErrCode) (s : State) : (setErr c s).metDu = s.metDu := rfl
@[simp] theorem setErr_metLb (c : ErrCode) (s : State) : (setErr c s).metLb = s.metLb := rfl
@[simp] theorem setErr_metDeg (c : ErrCode) (s : State) : (setErr c s).metDeg = s.metDeg := rfl
@[simp] theorem setErr_metFp (c : ErrCode) (s : State) : (setErr c s).metFp = s.metFp := rfl
@[simp] theorem setErr_t (c : ErrCode) (s : State) : (setErr c s).t = s.t := rfl
@[simp] theorem setErr_draws (c : ErrCode) (s : State) : (setErr c s).draws = s.draws := rfl
@[simp] theorem setErr_turns (c : ErrCode) (s : State) : (setErr c s).turns = s.turns := rfl
@[simp] theorem setErr_host (c : ErrCode) (s : State) : (setErr c s).host = s.host := rfl
@[simp] theorem setErr_trace (c : ErrCode) (s : State) : (setErr c s).trace = s.trace := rfl

/-! ### `finish`: The end of a completion writes BUSY and DONE alone (40_command.md R71). -/

@[simp] theorem finish_ie (s : State) : (finish s).ie = s.ie := rfl
@[simp] theorem finish_busy (s : State) : (finish s).busy = false := rfl
@[simp] theorem finish_done (s : State) : (finish s).done = true := rfl
@[simp] theorem finish_lock (s : State) : (finish s).lock = s.lock := rfl
@[simp] theorem finish_halt (s : State) : (finish s).halt = s.halt := rfl
@[simp] theorem finish_busyerr (s : State) : (finish s).busyerr = s.busyerr := rfl
@[simp] theorem finish_cfgerr (s : State) : (finish s).cfgerr = s.cfgerr := rfl
@[simp] theorem finish_err (s : State) : (finish s).err = s.err := rfl
@[simp] theorem finish_cmd (s : State) : (finish s).cmd = s.cmd := rfl
@[simp] theorem finish_opa (s : State) : (finish s).opa = s.opa := rfl
@[simp] theorem finish_opb (s : State) : (finish s).opb = s.opb := rfl
@[simp] theorem finish_res0 (s : State) : (finish s).res0 = s.res0 := rfl
@[simp] theorem finish_res1 (s : State) : (finish s).res1 = s.res1 := rfl
@[simp] theorem finish_mlo (s : State) : (finish s).mlo = s.mlo := rfl
@[simp] theorem finish_seed (s : State) : (finish s).seed = s.seed := rfl
@[simp] theorem finish_sconst (s : State) : (finish s).sconst = s.sconst := rfl
@[simp] theorem finish_svalid (s : State) : (finish s).svalid = s.svalid := rfl
@[simp] theorem finish_metBij (s : State) : (finish s).metBij = s.metBij := rfl
@[simp] theorem finish_metNl (s : State) : (finish s).metNl = s.metNl := rfl
@[simp] theorem finish_metSac (s : State) : (finish s).metSac = s.metSac := rfl
@[simp] theorem finish_metDu (s : State) : (finish s).metDu = s.metDu := rfl
@[simp] theorem finish_metLb (s : State) : (finish s).metLb = s.metLb := rfl
@[simp] theorem finish_metDeg (s : State) : (finish s).metDeg = s.metDeg := rfl
@[simp] theorem finish_metFp (s : State) : (finish s).metFp = s.metFp := rfl
@[simp] theorem finish_t (s : State) : (finish s).t = s.t := rfl
@[simp] theorem finish_draws (s : State) : (finish s).draws = s.draws := rfl
@[simp] theorem finish_turns (s : State) : (finish s).turns = s.turns := rfl
@[simp] theorem finish_host (s : State) : (finish s).host = s.host := rfl
@[simp] theorem finish_trace (s : State) : (finish s).trace = s.trace := rfl

/-! ### `writeRes0`: A byte result goes to RES0 alone (10_state.md R31). -/

@[simp] theorem writeRes0_ie (v : Byte) (s : State) : (writeRes0 v s).ie = s.ie := rfl
@[simp] theorem writeRes0_busy (v : Byte) (s : State) : (writeRes0 v s).busy = s.busy := rfl
@[simp] theorem writeRes0_done (v : Byte) (s : State) : (writeRes0 v s).done = s.done := rfl
@[simp] theorem writeRes0_lock (v : Byte) (s : State) : (writeRes0 v s).lock = s.lock := rfl
@[simp] theorem writeRes0_halt (v : Byte) (s : State) : (writeRes0 v s).halt = s.halt := rfl
@[simp] theorem writeRes0_busyerr (v : Byte) (s : State) : (writeRes0 v s).busyerr = s.busyerr := rfl
@[simp] theorem writeRes0_cfgerr (v : Byte) (s : State) : (writeRes0 v s).cfgerr = s.cfgerr := rfl
@[simp] theorem writeRes0_err (v : Byte) (s : State) : (writeRes0 v s).err = s.err := rfl
@[simp] theorem writeRes0_cmd (v : Byte) (s : State) : (writeRes0 v s).cmd = s.cmd := rfl
@[simp] theorem writeRes0_opa (v : Byte) (s : State) : (writeRes0 v s).opa = s.opa := rfl
@[simp] theorem writeRes0_opb (v : Byte) (s : State) : (writeRes0 v s).opb = s.opb := rfl
@[simp] theorem writeRes0_res0 (v : Byte) (s : State) : (writeRes0 v s).res0 = v.setWidth 32 := rfl
@[simp] theorem writeRes0_res1 (v : Byte) (s : State) : (writeRes0 v s).res1 = s.res1 := rfl
@[simp] theorem writeRes0_mlo (v : Byte) (s : State) : (writeRes0 v s).mlo = s.mlo := rfl
@[simp] theorem writeRes0_seed (v : Byte) (s : State) : (writeRes0 v s).seed = s.seed := rfl
@[simp] theorem writeRes0_sconst (v : Byte) (s : State) : (writeRes0 v s).sconst = s.sconst := rfl
@[simp] theorem writeRes0_svalid (v : Byte) (s : State) : (writeRes0 v s).svalid = s.svalid := rfl
@[simp] theorem writeRes0_metBij (v : Byte) (s : State) : (writeRes0 v s).metBij = s.metBij := rfl
@[simp] theorem writeRes0_metNl (v : Byte) (s : State) : (writeRes0 v s).metNl = s.metNl := rfl
@[simp] theorem writeRes0_metSac (v : Byte) (s : State) : (writeRes0 v s).metSac = s.metSac := rfl
@[simp] theorem writeRes0_metDu (v : Byte) (s : State) : (writeRes0 v s).metDu = s.metDu := rfl
@[simp] theorem writeRes0_metLb (v : Byte) (s : State) : (writeRes0 v s).metLb = s.metLb := rfl
@[simp] theorem writeRes0_metDeg (v : Byte) (s : State) : (writeRes0 v s).metDeg = s.metDeg := rfl
@[simp] theorem writeRes0_metFp (v : Byte) (s : State) : (writeRes0 v s).metFp = s.metFp := rfl
@[simp] theorem writeRes0_t (v : Byte) (s : State) : (writeRes0 v s).t = s.t := rfl
@[simp] theorem writeRes0_draws (v : Byte) (s : State) : (writeRes0 v s).draws = s.draws := rfl
@[simp] theorem writeRes0_turns (v : Byte) (s : State) : (writeRes0 v s).turns = s.turns := rfl
@[simp] theorem writeRes0_host (v : Byte) (s : State) : (writeRes0 v s).host = s.host := rfl
@[simp] theorem writeRes0_trace (v : Byte) (s : State) : (writeRes0 v s).trace = s.trace := rfl

/-! ### `writeRes0Word`: A word result goes to RES0 alone (10_state.md R31). -/

@[simp] theorem writeRes0Word_ie (w : Word) (s : State) : (writeRes0Word w s).ie = s.ie := rfl
@[simp] theorem writeRes0Word_busy (w : Word) (s : State) : (writeRes0Word w s).busy = s.busy := rfl
@[simp] theorem writeRes0Word_done (w : Word) (s : State) : (writeRes0Word w s).done = s.done := rfl
@[simp] theorem writeRes0Word_lock (w : Word) (s : State) : (writeRes0Word w s).lock = s.lock := rfl
@[simp] theorem writeRes0Word_halt (w : Word) (s : State) : (writeRes0Word w s).halt = s.halt := rfl
@[simp] theorem writeRes0Word_busyerr (w : Word) (s : State) : (writeRes0Word w s).busyerr = s.busyerr := rfl
@[simp] theorem writeRes0Word_cfgerr (w : Word) (s : State) : (writeRes0Word w s).cfgerr = s.cfgerr := rfl
@[simp] theorem writeRes0Word_err (w : Word) (s : State) : (writeRes0Word w s).err = s.err := rfl
@[simp] theorem writeRes0Word_cmd (w : Word) (s : State) : (writeRes0Word w s).cmd = s.cmd := rfl
@[simp] theorem writeRes0Word_opa (w : Word) (s : State) : (writeRes0Word w s).opa = s.opa := rfl
@[simp] theorem writeRes0Word_opb (w : Word) (s : State) : (writeRes0Word w s).opb = s.opb := rfl
@[simp] theorem writeRes0Word_res0 (w : Word) (s : State) : (writeRes0Word w s).res0 = w := rfl
@[simp] theorem writeRes0Word_res1 (w : Word) (s : State) : (writeRes0Word w s).res1 = s.res1 := rfl
@[simp] theorem writeRes0Word_mlo (w : Word) (s : State) : (writeRes0Word w s).mlo = s.mlo := rfl
@[simp] theorem writeRes0Word_seed (w : Word) (s : State) : (writeRes0Word w s).seed = s.seed := rfl
@[simp] theorem writeRes0Word_sconst (w : Word) (s : State) : (writeRes0Word w s).sconst = s.sconst := rfl
@[simp] theorem writeRes0Word_svalid (w : Word) (s : State) : (writeRes0Word w s).svalid = s.svalid := rfl
@[simp] theorem writeRes0Word_metBij (w : Word) (s : State) : (writeRes0Word w s).metBij = s.metBij := rfl
@[simp] theorem writeRes0Word_metNl (w : Word) (s : State) : (writeRes0Word w s).metNl = s.metNl := rfl
@[simp] theorem writeRes0Word_metSac (w : Word) (s : State) : (writeRes0Word w s).metSac = s.metSac := rfl
@[simp] theorem writeRes0Word_metDu (w : Word) (s : State) : (writeRes0Word w s).metDu = s.metDu := rfl
@[simp] theorem writeRes0Word_metLb (w : Word) (s : State) : (writeRes0Word w s).metLb = s.metLb := rfl
@[simp] theorem writeRes0Word_metDeg (w : Word) (s : State) : (writeRes0Word w s).metDeg = s.metDeg := rfl
@[simp] theorem writeRes0Word_metFp (w : Word) (s : State) : (writeRes0Word w s).metFp = s.metFp := rfl
@[simp] theorem writeRes0Word_t (w : Word) (s : State) : (writeRes0Word w s).t = s.t := rfl
@[simp] theorem writeRes0Word_draws (w : Word) (s : State) : (writeRes0Word w s).draws = s.draws := rfl
@[simp] theorem writeRes0Word_turns (w : Word) (s : State) : (writeRes0Word w s).turns = s.turns := rfl
@[simp] theorem writeRes0Word_host (w : Word) (s : State) : (writeRes0Word w s).host = s.host := rfl
@[simp] theorem writeRes0Word_trace (w : Word) (s : State) : (writeRes0Word w s).trace = s.trace := rfl

/-! ### `setIe`: CTRL.IE alone (60_exceptions.md R149). -/

@[simp] theorem setIe_ie (b : Bool) (s : State) : (setIe b s).ie = b := rfl
@[simp] theorem setIe_busy (b : Bool) (s : State) : (setIe b s).busy = s.busy := rfl
@[simp] theorem setIe_done (b : Bool) (s : State) : (setIe b s).done = s.done := rfl
@[simp] theorem setIe_lock (b : Bool) (s : State) : (setIe b s).lock = s.lock := rfl
@[simp] theorem setIe_halt (b : Bool) (s : State) : (setIe b s).halt = s.halt := rfl
@[simp] theorem setIe_busyerr (b : Bool) (s : State) : (setIe b s).busyerr = s.busyerr := rfl
@[simp] theorem setIe_cfgerr (b : Bool) (s : State) : (setIe b s).cfgerr = s.cfgerr := rfl
@[simp] theorem setIe_err (b : Bool) (s : State) : (setIe b s).err = s.err := rfl
@[simp] theorem setIe_cmd (b : Bool) (s : State) : (setIe b s).cmd = s.cmd := rfl
@[simp] theorem setIe_opa (b : Bool) (s : State) : (setIe b s).opa = s.opa := rfl
@[simp] theorem setIe_opb (b : Bool) (s : State) : (setIe b s).opb = s.opb := rfl
@[simp] theorem setIe_res0 (b : Bool) (s : State) : (setIe b s).res0 = s.res0 := rfl
@[simp] theorem setIe_res1 (b : Bool) (s : State) : (setIe b s).res1 = s.res1 := rfl
@[simp] theorem setIe_mlo (b : Bool) (s : State) : (setIe b s).mlo = s.mlo := rfl
@[simp] theorem setIe_seed (b : Bool) (s : State) : (setIe b s).seed = s.seed := rfl
@[simp] theorem setIe_sconst (b : Bool) (s : State) : (setIe b s).sconst = s.sconst := rfl
@[simp] theorem setIe_svalid (b : Bool) (s : State) : (setIe b s).svalid = s.svalid := rfl
@[simp] theorem setIe_metBij (b : Bool) (s : State) : (setIe b s).metBij = s.metBij := rfl
@[simp] theorem setIe_metNl (b : Bool) (s : State) : (setIe b s).metNl = s.metNl := rfl
@[simp] theorem setIe_metSac (b : Bool) (s : State) : (setIe b s).metSac = s.metSac := rfl
@[simp] theorem setIe_metDu (b : Bool) (s : State) : (setIe b s).metDu = s.metDu := rfl
@[simp] theorem setIe_metLb (b : Bool) (s : State) : (setIe b s).metLb = s.metLb := rfl
@[simp] theorem setIe_metDeg (b : Bool) (s : State) : (setIe b s).metDeg = s.metDeg := rfl
@[simp] theorem setIe_metFp (b : Bool) (s : State) : (setIe b s).metFp = s.metFp := rfl
@[simp] theorem setIe_t (b : Bool) (s : State) : (setIe b s).t = s.t := rfl
@[simp] theorem setIe_draws (b : Bool) (s : State) : (setIe b s).draws = s.draws := rfl
@[simp] theorem setIe_turns (b : Bool) (s : State) : (setIe b s).turns = s.turns := rfl
@[simp] theorem setIe_host (b : Bool) (s : State) : (setIe b s).host = s.host := rfl
@[simp] theorem setIe_trace (b : Bool) (s : State) : (setIe b s).trace = s.trace := rfl

/-! ### `setBusyerr`: BUSYERR alone (60_exceptions.md R143). -/

@[simp] theorem setBusyerr_ie (s : State) : (setBusyerr s).ie = s.ie := rfl
@[simp] theorem setBusyerr_busy (s : State) : (setBusyerr s).busy = s.busy := rfl
@[simp] theorem setBusyerr_done (s : State) : (setBusyerr s).done = s.done := rfl
@[simp] theorem setBusyerr_lock (s : State) : (setBusyerr s).lock = s.lock := rfl
@[simp] theorem setBusyerr_halt (s : State) : (setBusyerr s).halt = s.halt := rfl
@[simp] theorem setBusyerr_busyerr (s : State) : (setBusyerr s).busyerr = true := rfl
@[simp] theorem setBusyerr_cfgerr (s : State) : (setBusyerr s).cfgerr = s.cfgerr := rfl
@[simp] theorem setBusyerr_err (s : State) : (setBusyerr s).err = s.err := rfl
@[simp] theorem setBusyerr_cmd (s : State) : (setBusyerr s).cmd = s.cmd := rfl
@[simp] theorem setBusyerr_opa (s : State) : (setBusyerr s).opa = s.opa := rfl
@[simp] theorem setBusyerr_opb (s : State) : (setBusyerr s).opb = s.opb := rfl
@[simp] theorem setBusyerr_res0 (s : State) : (setBusyerr s).res0 = s.res0 := rfl
@[simp] theorem setBusyerr_res1 (s : State) : (setBusyerr s).res1 = s.res1 := rfl
@[simp] theorem setBusyerr_mlo (s : State) : (setBusyerr s).mlo = s.mlo := rfl
@[simp] theorem setBusyerr_seed (s : State) : (setBusyerr s).seed = s.seed := rfl
@[simp] theorem setBusyerr_sconst (s : State) : (setBusyerr s).sconst = s.sconst := rfl
@[simp] theorem setBusyerr_svalid (s : State) : (setBusyerr s).svalid = s.svalid := rfl
@[simp] theorem setBusyerr_metBij (s : State) : (setBusyerr s).metBij = s.metBij := rfl
@[simp] theorem setBusyerr_metNl (s : State) : (setBusyerr s).metNl = s.metNl := rfl
@[simp] theorem setBusyerr_metSac (s : State) : (setBusyerr s).metSac = s.metSac := rfl
@[simp] theorem setBusyerr_metDu (s : State) : (setBusyerr s).metDu = s.metDu := rfl
@[simp] theorem setBusyerr_metLb (s : State) : (setBusyerr s).metLb = s.metLb := rfl
@[simp] theorem setBusyerr_metDeg (s : State) : (setBusyerr s).metDeg = s.metDeg := rfl
@[simp] theorem setBusyerr_metFp (s : State) : (setBusyerr s).metFp = s.metFp := rfl
@[simp] theorem setBusyerr_t (s : State) : (setBusyerr s).t = s.t := rfl
@[simp] theorem setBusyerr_draws (s : State) : (setBusyerr s).draws = s.draws := rfl
@[simp] theorem setBusyerr_turns (s : State) : (setBusyerr s).turns = s.turns := rfl
@[simp] theorem setBusyerr_host (s : State) : (setBusyerr s).host = s.host := rfl
@[simp] theorem setBusyerr_trace (s : State) : (setBusyerr s).trace = s.trace := rfl

/-! ### `setCfgerr`: CFGERR alone (60_exceptions.md R144). -/

@[simp] theorem setCfgerr_ie (s : State) : (setCfgerr s).ie = s.ie := rfl
@[simp] theorem setCfgerr_busy (s : State) : (setCfgerr s).busy = s.busy := rfl
@[simp] theorem setCfgerr_done (s : State) : (setCfgerr s).done = s.done := rfl
@[simp] theorem setCfgerr_lock (s : State) : (setCfgerr s).lock = s.lock := rfl
@[simp] theorem setCfgerr_halt (s : State) : (setCfgerr s).halt = s.halt := rfl
@[simp] theorem setCfgerr_busyerr (s : State) : (setCfgerr s).busyerr = s.busyerr := rfl
@[simp] theorem setCfgerr_cfgerr (s : State) : (setCfgerr s).cfgerr = true := rfl
@[simp] theorem setCfgerr_err (s : State) : (setCfgerr s).err = s.err := rfl
@[simp] theorem setCfgerr_cmd (s : State) : (setCfgerr s).cmd = s.cmd := rfl
@[simp] theorem setCfgerr_opa (s : State) : (setCfgerr s).opa = s.opa := rfl
@[simp] theorem setCfgerr_opb (s : State) : (setCfgerr s).opb = s.opb := rfl
@[simp] theorem setCfgerr_res0 (s : State) : (setCfgerr s).res0 = s.res0 := rfl
@[simp] theorem setCfgerr_res1 (s : State) : (setCfgerr s).res1 = s.res1 := rfl
@[simp] theorem setCfgerr_mlo (s : State) : (setCfgerr s).mlo = s.mlo := rfl
@[simp] theorem setCfgerr_seed (s : State) : (setCfgerr s).seed = s.seed := rfl
@[simp] theorem setCfgerr_sconst (s : State) : (setCfgerr s).sconst = s.sconst := rfl
@[simp] theorem setCfgerr_svalid (s : State) : (setCfgerr s).svalid = s.svalid := rfl
@[simp] theorem setCfgerr_metBij (s : State) : (setCfgerr s).metBij = s.metBij := rfl
@[simp] theorem setCfgerr_metNl (s : State) : (setCfgerr s).metNl = s.metNl := rfl
@[simp] theorem setCfgerr_metSac (s : State) : (setCfgerr s).metSac = s.metSac := rfl
@[simp] theorem setCfgerr_metDu (s : State) : (setCfgerr s).metDu = s.metDu := rfl
@[simp] theorem setCfgerr_metLb (s : State) : (setCfgerr s).metLb = s.metLb := rfl
@[simp] theorem setCfgerr_metDeg (s : State) : (setCfgerr s).metDeg = s.metDeg := rfl
@[simp] theorem setCfgerr_metFp (s : State) : (setCfgerr s).metFp = s.metFp := rfl
@[simp] theorem setCfgerr_t (s : State) : (setCfgerr s).t = s.t := rfl
@[simp] theorem setCfgerr_draws (s : State) : (setCfgerr s).draws = s.draws := rfl
@[simp] theorem setCfgerr_turns (s : State) : (setCfgerr s).turns = s.turns := rfl
@[simp] theorem setCfgerr_host (s : State) : (setCfgerr s).host = s.host := rfl
@[simp] theorem setCfgerr_trace (s : State) : (setCfgerr s).trace = s.trace := rfl

/-! ### `countDraw`: The count of draws alone. -/

@[simp] theorem countDraw_ie (s : State) : (countDraw s).ie = s.ie := rfl
@[simp] theorem countDraw_busy (s : State) : (countDraw s).busy = s.busy := rfl
@[simp] theorem countDraw_done (s : State) : (countDraw s).done = s.done := rfl
@[simp] theorem countDraw_lock (s : State) : (countDraw s).lock = s.lock := rfl
@[simp] theorem countDraw_halt (s : State) : (countDraw s).halt = s.halt := rfl
@[simp] theorem countDraw_busyerr (s : State) : (countDraw s).busyerr = s.busyerr := rfl
@[simp] theorem countDraw_cfgerr (s : State) : (countDraw s).cfgerr = s.cfgerr := rfl
@[simp] theorem countDraw_err (s : State) : (countDraw s).err = s.err := rfl
@[simp] theorem countDraw_cmd (s : State) : (countDraw s).cmd = s.cmd := rfl
@[simp] theorem countDraw_opa (s : State) : (countDraw s).opa = s.opa := rfl
@[simp] theorem countDraw_opb (s : State) : (countDraw s).opb = s.opb := rfl
@[simp] theorem countDraw_res0 (s : State) : (countDraw s).res0 = s.res0 := rfl
@[simp] theorem countDraw_res1 (s : State) : (countDraw s).res1 = s.res1 := rfl
@[simp] theorem countDraw_mlo (s : State) : (countDraw s).mlo = s.mlo := rfl
@[simp] theorem countDraw_seed (s : State) : (countDraw s).seed = s.seed := rfl
@[simp] theorem countDraw_sconst (s : State) : (countDraw s).sconst = s.sconst := rfl
@[simp] theorem countDraw_svalid (s : State) : (countDraw s).svalid = s.svalid := rfl
@[simp] theorem countDraw_metBij (s : State) : (countDraw s).metBij = s.metBij := rfl
@[simp] theorem countDraw_metNl (s : State) : (countDraw s).metNl = s.metNl := rfl
@[simp] theorem countDraw_metSac (s : State) : (countDraw s).metSac = s.metSac := rfl
@[simp] theorem countDraw_metDu (s : State) : (countDraw s).metDu = s.metDu := rfl
@[simp] theorem countDraw_metLb (s : State) : (countDraw s).metLb = s.metLb := rfl
@[simp] theorem countDraw_metDeg (s : State) : (countDraw s).metDeg = s.metDeg := rfl
@[simp] theorem countDraw_metFp (s : State) : (countDraw s).metFp = s.metFp := rfl
@[simp] theorem countDraw_t (s : State) : (countDraw s).t = s.t := rfl
@[simp] theorem countDraw_draws (s : State) : (countDraw s).draws = s.draws + 1 := rfl
@[simp] theorem countDraw_turns (s : State) : (countDraw s).turns = s.turns := rfl
@[simp] theorem countDraw_host (s : State) : (countDraw s).host = s.host := rfl
@[simp] theorem countDraw_trace (s : State) : (countDraw s).trace = s.trace := rfl

/-! ### `setTurns`: The schedule alone. -/

@[simp] theorem setTurns_ie (us : List Turn) (s : State) : (setTurns us s).ie = s.ie := rfl
@[simp] theorem setTurns_busy (us : List Turn) (s : State) : (setTurns us s).busy = s.busy := rfl
@[simp] theorem setTurns_done (us : List Turn) (s : State) : (setTurns us s).done = s.done := rfl
@[simp] theorem setTurns_lock (us : List Turn) (s : State) : (setTurns us s).lock = s.lock := rfl
@[simp] theorem setTurns_halt (us : List Turn) (s : State) : (setTurns us s).halt = s.halt := rfl
@[simp] theorem setTurns_busyerr (us : List Turn) (s : State) : (setTurns us s).busyerr = s.busyerr := rfl
@[simp] theorem setTurns_cfgerr (us : List Turn) (s : State) : (setTurns us s).cfgerr = s.cfgerr := rfl
@[simp] theorem setTurns_err (us : List Turn) (s : State) : (setTurns us s).err = s.err := rfl
@[simp] theorem setTurns_cmd (us : List Turn) (s : State) : (setTurns us s).cmd = s.cmd := rfl
@[simp] theorem setTurns_opa (us : List Turn) (s : State) : (setTurns us s).opa = s.opa := rfl
@[simp] theorem setTurns_opb (us : List Turn) (s : State) : (setTurns us s).opb = s.opb := rfl
@[simp] theorem setTurns_res0 (us : List Turn) (s : State) : (setTurns us s).res0 = s.res0 := rfl
@[simp] theorem setTurns_res1 (us : List Turn) (s : State) : (setTurns us s).res1 = s.res1 := rfl
@[simp] theorem setTurns_mlo (us : List Turn) (s : State) : (setTurns us s).mlo = s.mlo := rfl
@[simp] theorem setTurns_seed (us : List Turn) (s : State) : (setTurns us s).seed = s.seed := rfl
@[simp] theorem setTurns_sconst (us : List Turn) (s : State) : (setTurns us s).sconst = s.sconst := rfl
@[simp] theorem setTurns_svalid (us : List Turn) (s : State) : (setTurns us s).svalid = s.svalid := rfl
@[simp] theorem setTurns_metBij (us : List Turn) (s : State) : (setTurns us s).metBij = s.metBij := rfl
@[simp] theorem setTurns_metNl (us : List Turn) (s : State) : (setTurns us s).metNl = s.metNl := rfl
@[simp] theorem setTurns_metSac (us : List Turn) (s : State) : (setTurns us s).metSac = s.metSac := rfl
@[simp] theorem setTurns_metDu (us : List Turn) (s : State) : (setTurns us s).metDu = s.metDu := rfl
@[simp] theorem setTurns_metLb (us : List Turn) (s : State) : (setTurns us s).metLb = s.metLb := rfl
@[simp] theorem setTurns_metDeg (us : List Turn) (s : State) : (setTurns us s).metDeg = s.metDeg := rfl
@[simp] theorem setTurns_metFp (us : List Turn) (s : State) : (setTurns us s).metFp = s.metFp := rfl
@[simp] theorem setTurns_t (us : List Turn) (s : State) : (setTurns us s).t = s.t := rfl
@[simp] theorem setTurns_draws (us : List Turn) (s : State) : (setTurns us s).draws = s.draws := rfl
@[simp] theorem setTurns_turns (us : List Turn) (s : State) : (setTurns us s).turns = us := rfl
@[simp] theorem setTurns_host (us : List Turn) (s : State) : (setTurns us s).host = s.host := rfl
@[simp] theorem setTurns_trace (us : List Turn) (s : State) : (setTurns us s).trace = s.trace := rfl

/-! ### `setHost`: The host's statements alone. -/

@[simp] theorem setHost_ie (hs : List HostStmt) (s : State) : (setHost hs s).ie = s.ie := rfl
@[simp] theorem setHost_busy (hs : List HostStmt) (s : State) : (setHost hs s).busy = s.busy := rfl
@[simp] theorem setHost_done (hs : List HostStmt) (s : State) : (setHost hs s).done = s.done := rfl
@[simp] theorem setHost_lock (hs : List HostStmt) (s : State) : (setHost hs s).lock = s.lock := rfl
@[simp] theorem setHost_halt (hs : List HostStmt) (s : State) : (setHost hs s).halt = s.halt := rfl
@[simp] theorem setHost_busyerr (hs : List HostStmt) (s : State) : (setHost hs s).busyerr = s.busyerr := rfl
@[simp] theorem setHost_cfgerr (hs : List HostStmt) (s : State) : (setHost hs s).cfgerr = s.cfgerr := rfl
@[simp] theorem setHost_err (hs : List HostStmt) (s : State) : (setHost hs s).err = s.err := rfl
@[simp] theorem setHost_cmd (hs : List HostStmt) (s : State) : (setHost hs s).cmd = s.cmd := rfl
@[simp] theorem setHost_opa (hs : List HostStmt) (s : State) : (setHost hs s).opa = s.opa := rfl
@[simp] theorem setHost_opb (hs : List HostStmt) (s : State) : (setHost hs s).opb = s.opb := rfl
@[simp] theorem setHost_res0 (hs : List HostStmt) (s : State) : (setHost hs s).res0 = s.res0 := rfl
@[simp] theorem setHost_res1 (hs : List HostStmt) (s : State) : (setHost hs s).res1 = s.res1 := rfl
@[simp] theorem setHost_mlo (hs : List HostStmt) (s : State) : (setHost hs s).mlo = s.mlo := rfl
@[simp] theorem setHost_seed (hs : List HostStmt) (s : State) : (setHost hs s).seed = s.seed := rfl
@[simp] theorem setHost_sconst (hs : List HostStmt) (s : State) : (setHost hs s).sconst = s.sconst := rfl
@[simp] theorem setHost_svalid (hs : List HostStmt) (s : State) : (setHost hs s).svalid = s.svalid := rfl
@[simp] theorem setHost_metBij (hs : List HostStmt) (s : State) : (setHost hs s).metBij = s.metBij := rfl
@[simp] theorem setHost_metNl (hs : List HostStmt) (s : State) : (setHost hs s).metNl = s.metNl := rfl
@[simp] theorem setHost_metSac (hs : List HostStmt) (s : State) : (setHost hs s).metSac = s.metSac := rfl
@[simp] theorem setHost_metDu (hs : List HostStmt) (s : State) : (setHost hs s).metDu = s.metDu := rfl
@[simp] theorem setHost_metLb (hs : List HostStmt) (s : State) : (setHost hs s).metLb = s.metLb := rfl
@[simp] theorem setHost_metDeg (hs : List HostStmt) (s : State) : (setHost hs s).metDeg = s.metDeg := rfl
@[simp] theorem setHost_metFp (hs : List HostStmt) (s : State) : (setHost hs s).metFp = s.metFp := rfl
@[simp] theorem setHost_t (hs : List HostStmt) (s : State) : (setHost hs s).t = s.t := rfl
@[simp] theorem setHost_draws (hs : List HostStmt) (s : State) : (setHost hs s).draws = s.draws := rfl
@[simp] theorem setHost_turns (hs : List HostStmt) (s : State) : (setHost hs s).turns = s.turns := rfl
@[simp] theorem setHost_host (hs : List HostStmt) (s : State) : (setHost hs s).host = hs := rfl
@[simp] theorem setHost_trace (hs : List HostStmt) (s : State) : (setHost hs s).trace = s.trace := rfl

/-! ### `record`: The trace alone. -/

@[simp] theorem record_ie (r : BusRecord) (s : State) : (record r s).ie = s.ie := rfl
@[simp] theorem record_busy (r : BusRecord) (s : State) : (record r s).busy = s.busy := rfl
@[simp] theorem record_done (r : BusRecord) (s : State) : (record r s).done = s.done := rfl
@[simp] theorem record_lock (r : BusRecord) (s : State) : (record r s).lock = s.lock := rfl
@[simp] theorem record_halt (r : BusRecord) (s : State) : (record r s).halt = s.halt := rfl
@[simp] theorem record_busyerr (r : BusRecord) (s : State) : (record r s).busyerr = s.busyerr := rfl
@[simp] theorem record_cfgerr (r : BusRecord) (s : State) : (record r s).cfgerr = s.cfgerr := rfl
@[simp] theorem record_err (r : BusRecord) (s : State) : (record r s).err = s.err := rfl
@[simp] theorem record_cmd (r : BusRecord) (s : State) : (record r s).cmd = s.cmd := rfl
@[simp] theorem record_opa (r : BusRecord) (s : State) : (record r s).opa = s.opa := rfl
@[simp] theorem record_opb (r : BusRecord) (s : State) : (record r s).opb = s.opb := rfl
@[simp] theorem record_res0 (r : BusRecord) (s : State) : (record r s).res0 = s.res0 := rfl
@[simp] theorem record_res1 (r : BusRecord) (s : State) : (record r s).res1 = s.res1 := rfl
@[simp] theorem record_mlo (r : BusRecord) (s : State) : (record r s).mlo = s.mlo := rfl
@[simp] theorem record_seed (r : BusRecord) (s : State) : (record r s).seed = s.seed := rfl
@[simp] theorem record_sconst (r : BusRecord) (s : State) : (record r s).sconst = s.sconst := rfl
@[simp] theorem record_svalid (r : BusRecord) (s : State) : (record r s).svalid = s.svalid := rfl
@[simp] theorem record_metBij (r : BusRecord) (s : State) : (record r s).metBij = s.metBij := rfl
@[simp] theorem record_metNl (r : BusRecord) (s : State) : (record r s).metNl = s.metNl := rfl
@[simp] theorem record_metSac (r : BusRecord) (s : State) : (record r s).metSac = s.metSac := rfl
@[simp] theorem record_metDu (r : BusRecord) (s : State) : (record r s).metDu = s.metDu := rfl
@[simp] theorem record_metLb (r : BusRecord) (s : State) : (record r s).metLb = s.metLb := rfl
@[simp] theorem record_metDeg (r : BusRecord) (s : State) : (record r s).metDeg = s.metDeg := rfl
@[simp] theorem record_metFp (r : BusRecord) (s : State) : (record r s).metFp = s.metFp := rfl
@[simp] theorem record_t (r : BusRecord) (s : State) : (record r s).t = s.t := rfl
@[simp] theorem record_draws (r : BusRecord) (s : State) : (record r s).draws = s.draws := rfl
@[simp] theorem record_turns (r : BusRecord) (s : State) : (record r s).turns = s.turns := rfl
@[simp] theorem record_host (r : BusRecord) (s : State) : (record r s).host = s.host := rfl
@[simp] theorem record_trace (r : BusRecord) (s : State) : (record r s).trace = r :: s.trace := rfl

/-! ### `scrambleTable`: A failed search (43_sbox.md R98). -/

@[simp] theorem scrambleTable_ie (s : State) : (scrambleTable s).ie = s.ie := rfl
@[simp] theorem scrambleTable_busy (s : State) : (scrambleTable s).busy = s.busy := rfl
@[simp] theorem scrambleTable_done (s : State) : (scrambleTable s).done = s.done := rfl
@[simp] theorem scrambleTable_lock (s : State) : (scrambleTable s).lock = s.lock := rfl
@[simp] theorem scrambleTable_halt (s : State) : (scrambleTable s).halt = s.halt := rfl
@[simp] theorem scrambleTable_busyerr (s : State) : (scrambleTable s).busyerr = s.busyerr := rfl
@[simp] theorem scrambleTable_cfgerr (s : State) : (scrambleTable s).cfgerr = s.cfgerr := rfl
@[simp] theorem scrambleTable_err (s : State) : (scrambleTable s).err = s.err := rfl
@[simp] theorem scrambleTable_cmd (s : State) : (scrambleTable s).cmd = s.cmd := rfl
@[simp] theorem scrambleTable_opa (s : State) : (scrambleTable s).opa = s.opa := rfl
@[simp] theorem scrambleTable_opb (s : State) : (scrambleTable s).opb = s.opb := rfl
@[simp] theorem scrambleTable_res0 (s : State) : (scrambleTable s).res0 = s.res0 := rfl
@[simp] theorem scrambleTable_res1 (s : State) : (scrambleTable s).res1 = s.res1 := rfl
@[simp] theorem scrambleTable_mlo (s : State) : (scrambleTable s).mlo = s.mlo := rfl
@[simp] theorem scrambleTable_seed (s : State) : (scrambleTable s).seed = s.seed := rfl
@[simp] theorem scrambleTable_sconst (s : State) : (scrambleTable s).sconst = s.sconst := rfl
@[simp] theorem scrambleTable_svalid (s : State) : (scrambleTable s).svalid = false := rfl
@[simp] theorem scrambleTable_metBij (s : State) : (scrambleTable s).metBij = s.metBij := rfl
@[simp] theorem scrambleTable_metNl (s : State) : (scrambleTable s).metNl = s.metNl := rfl
@[simp] theorem scrambleTable_metSac (s : State) : (scrambleTable s).metSac = s.metSac := rfl
@[simp] theorem scrambleTable_metDu (s : State) : (scrambleTable s).metDu = s.metDu := rfl
@[simp] theorem scrambleTable_metLb (s : State) : (scrambleTable s).metLb = s.metLb := rfl
@[simp] theorem scrambleTable_metDeg (s : State) : (scrambleTable s).metDeg = s.metDeg := rfl
@[simp] theorem scrambleTable_metFp (s : State) : (scrambleTable s).metFp = s.metFp := rfl
@[simp] theorem scrambleTable_t (s : State) : (scrambleTable s).t = freeTable s.draws := rfl
@[simp] theorem scrambleTable_draws (s : State) : (scrambleTable s).draws = s.draws + 1 := rfl
@[simp] theorem scrambleTable_turns (s : State) : (scrambleTable s).turns = s.turns := rfl
@[simp] theorem scrambleTable_host (s : State) : (scrambleTable s).host = s.host := rfl
@[simp] theorem scrambleTable_trace (s : State) : (scrambleTable s).trace = s.trace := rfl

/-! ### `writeBij`: 44_metrics.md R106. -/

@[simp] theorem writeBij_ie (s : State) : (writeBij s).ie = s.ie := by cases s; rfl
@[simp] theorem writeBij_busy (s : State) : (writeBij s).busy = s.busy := by cases s; rfl
@[simp] theorem writeBij_done (s : State) : (writeBij s).done = s.done := by cases s; rfl
@[simp] theorem writeBij_lock (s : State) : (writeBij s).lock = s.lock := by cases s; rfl
@[simp] theorem writeBij_halt (s : State) : (writeBij s).halt = s.halt := by cases s; rfl
@[simp] theorem writeBij_busyerr (s : State) : (writeBij s).busyerr = s.busyerr := by cases s; rfl
@[simp] theorem writeBij_cfgerr (s : State) : (writeBij s).cfgerr = s.cfgerr := by cases s; rfl
@[simp] theorem writeBij_err (s : State) : (writeBij s).err = s.err := by cases s; rfl
@[simp] theorem writeBij_cmd (s : State) : (writeBij s).cmd = s.cmd := by cases s; rfl
@[simp] theorem writeBij_opa (s : State) : (writeBij s).opa = s.opa := by cases s; rfl
@[simp] theorem writeBij_opb (s : State) : (writeBij s).opb = s.opb := by cases s; rfl
@[simp] theorem writeBij_res0 (s : State) : (writeBij s).res0 = s.res0 := by cases s; rfl
@[simp] theorem writeBij_res1 (s : State) : (writeBij s).res1 = s.res1 := by cases s; rfl
@[simp] theorem writeBij_mlo (s : State) : (writeBij s).mlo = s.mlo := by cases s; rfl
@[simp] theorem writeBij_seed (s : State) : (writeBij s).seed = s.seed := by cases s; rfl
@[simp] theorem writeBij_sconst (s : State) : (writeBij s).sconst = s.sconst := by cases s; rfl
@[simp] theorem writeBij_svalid (s : State) : (writeBij s).svalid = s.svalid := by cases s; rfl
@[simp] theorem writeBij_metBij (s : State) : (writeBij s).metBij = BitVec.ofNat 9 (metricBij s.t) := by cases s; rfl
@[simp] theorem writeBij_metNl (s : State) : (writeBij s).metNl = s.metNl := by cases s; rfl
@[simp] theorem writeBij_metSac (s : State) : (writeBij s).metSac = s.metSac := by cases s; rfl
@[simp] theorem writeBij_metDu (s : State) : (writeBij s).metDu = s.metDu := by cases s; rfl
@[simp] theorem writeBij_metLb (s : State) : (writeBij s).metLb = s.metLb := by cases s; rfl
@[simp] theorem writeBij_metDeg (s : State) : (writeBij s).metDeg = s.metDeg := by cases s; rfl
@[simp] theorem writeBij_metFp (s : State) : (writeBij s).metFp = s.metFp := by cases s; rfl
@[simp] theorem writeBij_t (s : State) : (writeBij s).t = s.t := by cases s; rfl
@[simp] theorem writeBij_draws (s : State) : (writeBij s).draws = s.draws := by cases s; rfl
@[simp] theorem writeBij_turns (s : State) : (writeBij s).turns = s.turns := by cases s; rfl
@[simp] theorem writeBij_host (s : State) : (writeBij s).host = s.host := by cases s; rfl
@[simp] theorem writeBij_trace (s : State) : (writeBij s).trace = s.trace := by cases s; rfl

/-! ### `writeNl`: 44_metrics.md R108. -/

@[simp] theorem writeNl_ie (s : State) : (writeNl s).ie = s.ie := by cases s; rfl
@[simp] theorem writeNl_busy (s : State) : (writeNl s).busy = s.busy := by cases s; rfl
@[simp] theorem writeNl_done (s : State) : (writeNl s).done = s.done := by cases s; rfl
@[simp] theorem writeNl_lock (s : State) : (writeNl s).lock = s.lock := by cases s; rfl
@[simp] theorem writeNl_halt (s : State) : (writeNl s).halt = s.halt := by cases s; rfl
@[simp] theorem writeNl_busyerr (s : State) : (writeNl s).busyerr = s.busyerr := by cases s; rfl
@[simp] theorem writeNl_cfgerr (s : State) : (writeNl s).cfgerr = s.cfgerr := by cases s; rfl
@[simp] theorem writeNl_err (s : State) : (writeNl s).err = s.err := by cases s; rfl
@[simp] theorem writeNl_cmd (s : State) : (writeNl s).cmd = s.cmd := by cases s; rfl
@[simp] theorem writeNl_opa (s : State) : (writeNl s).opa = s.opa := by cases s; rfl
@[simp] theorem writeNl_opb (s : State) : (writeNl s).opb = s.opb := by cases s; rfl
@[simp] theorem writeNl_res0 (s : State) : (writeNl s).res0 = s.res0 := by cases s; rfl
@[simp] theorem writeNl_res1 (s : State) : (writeNl s).res1 = s.res1 := by cases s; rfl
@[simp] theorem writeNl_mlo (s : State) : (writeNl s).mlo = s.mlo := by cases s; rfl
@[simp] theorem writeNl_seed (s : State) : (writeNl s).seed = s.seed := by cases s; rfl
@[simp] theorem writeNl_sconst (s : State) : (writeNl s).sconst = s.sconst := by cases s; rfl
@[simp] theorem writeNl_svalid (s : State) : (writeNl s).svalid = s.svalid := by cases s; rfl
@[simp] theorem writeNl_metBij (s : State) : (writeNl s).metBij = s.metBij := by cases s; rfl
@[simp] theorem writeNl_metNl (s : State) : (writeNl s).metNl = BitVec.ofInt 8 (metricNl s.t) := by cases s; rfl
@[simp] theorem writeNl_metSac (s : State) : (writeNl s).metSac = s.metSac := by cases s; rfl
@[simp] theorem writeNl_metDu (s : State) : (writeNl s).metDu = s.metDu := by cases s; rfl
@[simp] theorem writeNl_metLb (s : State) : (writeNl s).metLb = s.metLb := by cases s; rfl
@[simp] theorem writeNl_metDeg (s : State) : (writeNl s).metDeg = s.metDeg := by cases s; rfl
@[simp] theorem writeNl_metFp (s : State) : (writeNl s).metFp = s.metFp := by cases s; rfl
@[simp] theorem writeNl_t (s : State) : (writeNl s).t = s.t := by cases s; rfl
@[simp] theorem writeNl_draws (s : State) : (writeNl s).draws = s.draws := by cases s; rfl
@[simp] theorem writeNl_turns (s : State) : (writeNl s).turns = s.turns := by cases s; rfl
@[simp] theorem writeNl_host (s : State) : (writeNl s).host = s.host := by cases s; rfl
@[simp] theorem writeNl_trace (s : State) : (writeNl s).trace = s.trace := by cases s; rfl

/-! ### `writeSac`: 44_metrics.md R110. -/

@[simp] theorem writeSac_ie (s : State) : (writeSac s).ie = s.ie := by cases s; rfl
@[simp] theorem writeSac_busy (s : State) : (writeSac s).busy = s.busy := by cases s; rfl
@[simp] theorem writeSac_done (s : State) : (writeSac s).done = s.done := by cases s; rfl
@[simp] theorem writeSac_lock (s : State) : (writeSac s).lock = s.lock := by cases s; rfl
@[simp] theorem writeSac_halt (s : State) : (writeSac s).halt = s.halt := by cases s; rfl
@[simp] theorem writeSac_busyerr (s : State) : (writeSac s).busyerr = s.busyerr := by cases s; rfl
@[simp] theorem writeSac_cfgerr (s : State) : (writeSac s).cfgerr = s.cfgerr := by cases s; rfl
@[simp] theorem writeSac_err (s : State) : (writeSac s).err = s.err := by cases s; rfl
@[simp] theorem writeSac_cmd (s : State) : (writeSac s).cmd = s.cmd := by cases s; rfl
@[simp] theorem writeSac_opa (s : State) : (writeSac s).opa = s.opa := by cases s; rfl
@[simp] theorem writeSac_opb (s : State) : (writeSac s).opb = s.opb := by cases s; rfl
@[simp] theorem writeSac_res0 (s : State) : (writeSac s).res0 = s.res0 := by cases s; rfl
@[simp] theorem writeSac_res1 (s : State) : (writeSac s).res1 = s.res1 := by cases s; rfl
@[simp] theorem writeSac_mlo (s : State) : (writeSac s).mlo = s.mlo := by cases s; rfl
@[simp] theorem writeSac_seed (s : State) : (writeSac s).seed = s.seed := by cases s; rfl
@[simp] theorem writeSac_sconst (s : State) : (writeSac s).sconst = s.sconst := by cases s; rfl
@[simp] theorem writeSac_svalid (s : State) : (writeSac s).svalid = s.svalid := by cases s; rfl
@[simp] theorem writeSac_metBij (s : State) : (writeSac s).metBij = s.metBij := by cases s; rfl
@[simp] theorem writeSac_metNl (s : State) : (writeSac s).metNl = s.metNl := by cases s; rfl
@[simp] theorem writeSac_metSac (s : State) : (writeSac s).metSac = BitVec.ofNat 15 (metricSac s.t) := by cases s; rfl
@[simp] theorem writeSac_metDu (s : State) : (writeSac s).metDu = s.metDu := by cases s; rfl
@[simp] theorem writeSac_metLb (s : State) : (writeSac s).metLb = s.metLb := by cases s; rfl
@[simp] theorem writeSac_metDeg (s : State) : (writeSac s).metDeg = s.metDeg := by cases s; rfl
@[simp] theorem writeSac_metFp (s : State) : (writeSac s).metFp = s.metFp := by cases s; rfl
@[simp] theorem writeSac_t (s : State) : (writeSac s).t = s.t := by cases s; rfl
@[simp] theorem writeSac_draws (s : State) : (writeSac s).draws = s.draws := by cases s; rfl
@[simp] theorem writeSac_turns (s : State) : (writeSac s).turns = s.turns := by cases s; rfl
@[simp] theorem writeSac_host (s : State) : (writeSac s).host = s.host := by cases s; rfl
@[simp] theorem writeSac_trace (s : State) : (writeSac s).trace = s.trace := by cases s; rfl

/-! ### `writeDu`: 44_metrics.md R112. -/

@[simp] theorem writeDu_ie (s : State) : (writeDu s).ie = s.ie := by cases s; rfl
@[simp] theorem writeDu_busy (s : State) : (writeDu s).busy = s.busy := by cases s; rfl
@[simp] theorem writeDu_done (s : State) : (writeDu s).done = s.done := by cases s; rfl
@[simp] theorem writeDu_lock (s : State) : (writeDu s).lock = s.lock := by cases s; rfl
@[simp] theorem writeDu_halt (s : State) : (writeDu s).halt = s.halt := by cases s; rfl
@[simp] theorem writeDu_busyerr (s : State) : (writeDu s).busyerr = s.busyerr := by cases s; rfl
@[simp] theorem writeDu_cfgerr (s : State) : (writeDu s).cfgerr = s.cfgerr := by cases s; rfl
@[simp] theorem writeDu_err (s : State) : (writeDu s).err = s.err := by cases s; rfl
@[simp] theorem writeDu_cmd (s : State) : (writeDu s).cmd = s.cmd := by cases s; rfl
@[simp] theorem writeDu_opa (s : State) : (writeDu s).opa = s.opa := by cases s; rfl
@[simp] theorem writeDu_opb (s : State) : (writeDu s).opb = s.opb := by cases s; rfl
@[simp] theorem writeDu_res0 (s : State) : (writeDu s).res0 = s.res0 := by cases s; rfl
@[simp] theorem writeDu_res1 (s : State) : (writeDu s).res1 = s.res1 := by cases s; rfl
@[simp] theorem writeDu_mlo (s : State) : (writeDu s).mlo = s.mlo := by cases s; rfl
@[simp] theorem writeDu_seed (s : State) : (writeDu s).seed = s.seed := by cases s; rfl
@[simp] theorem writeDu_sconst (s : State) : (writeDu s).sconst = s.sconst := by cases s; rfl
@[simp] theorem writeDu_svalid (s : State) : (writeDu s).svalid = s.svalid := by cases s; rfl
@[simp] theorem writeDu_metBij (s : State) : (writeDu s).metBij = s.metBij := by cases s; rfl
@[simp] theorem writeDu_metNl (s : State) : (writeDu s).metNl = s.metNl := by cases s; rfl
@[simp] theorem writeDu_metSac (s : State) : (writeDu s).metSac = s.metSac := by cases s; rfl
@[simp] theorem writeDu_metDu (s : State) : (writeDu s).metDu = BitVec.ofNat 9 (metricDu s.t) := by cases s; rfl
@[simp] theorem writeDu_metLb (s : State) : (writeDu s).metLb = s.metLb := by cases s; rfl
@[simp] theorem writeDu_metDeg (s : State) : (writeDu s).metDeg = s.metDeg := by cases s; rfl
@[simp] theorem writeDu_metFp (s : State) : (writeDu s).metFp = s.metFp := by cases s; rfl
@[simp] theorem writeDu_t (s : State) : (writeDu s).t = s.t := by cases s; rfl
@[simp] theorem writeDu_draws (s : State) : (writeDu s).draws = s.draws := by cases s; rfl
@[simp] theorem writeDu_turns (s : State) : (writeDu s).turns = s.turns := by cases s; rfl
@[simp] theorem writeDu_host (s : State) : (writeDu s).host = s.host := by cases s; rfl
@[simp] theorem writeDu_trace (s : State) : (writeDu s).trace = s.trace := by cases s; rfl

/-! ### `writeLb`: 44_metrics.md R114. -/

@[simp] theorem writeLb_ie (s : State) : (writeLb s).ie = s.ie := by cases s; rfl
@[simp] theorem writeLb_busy (s : State) : (writeLb s).busy = s.busy := by cases s; rfl
@[simp] theorem writeLb_done (s : State) : (writeLb s).done = s.done := by cases s; rfl
@[simp] theorem writeLb_lock (s : State) : (writeLb s).lock = s.lock := by cases s; rfl
@[simp] theorem writeLb_halt (s : State) : (writeLb s).halt = s.halt := by cases s; rfl
@[simp] theorem writeLb_busyerr (s : State) : (writeLb s).busyerr = s.busyerr := by cases s; rfl
@[simp] theorem writeLb_cfgerr (s : State) : (writeLb s).cfgerr = s.cfgerr := by cases s; rfl
@[simp] theorem writeLb_err (s : State) : (writeLb s).err = s.err := by cases s; rfl
@[simp] theorem writeLb_cmd (s : State) : (writeLb s).cmd = s.cmd := by cases s; rfl
@[simp] theorem writeLb_opa (s : State) : (writeLb s).opa = s.opa := by cases s; rfl
@[simp] theorem writeLb_opb (s : State) : (writeLb s).opb = s.opb := by cases s; rfl
@[simp] theorem writeLb_res0 (s : State) : (writeLb s).res0 = s.res0 := by cases s; rfl
@[simp] theorem writeLb_res1 (s : State) : (writeLb s).res1 = s.res1 := by cases s; rfl
@[simp] theorem writeLb_mlo (s : State) : (writeLb s).mlo = s.mlo := by cases s; rfl
@[simp] theorem writeLb_seed (s : State) : (writeLb s).seed = s.seed := by cases s; rfl
@[simp] theorem writeLb_sconst (s : State) : (writeLb s).sconst = s.sconst := by cases s; rfl
@[simp] theorem writeLb_svalid (s : State) : (writeLb s).svalid = s.svalid := by cases s; rfl
@[simp] theorem writeLb_metBij (s : State) : (writeLb s).metBij = s.metBij := by cases s; rfl
@[simp] theorem writeLb_metNl (s : State) : (writeLb s).metNl = s.metNl := by cases s; rfl
@[simp] theorem writeLb_metSac (s : State) : (writeLb s).metSac = s.metSac := by cases s; rfl
@[simp] theorem writeLb_metDu (s : State) : (writeLb s).metDu = s.metDu := by cases s; rfl
@[simp] theorem writeLb_metLb (s : State) : (writeLb s).metLb = BitVec.ofNat 8 (metricLb s.t) := by cases s; rfl
@[simp] theorem writeLb_metDeg (s : State) : (writeLb s).metDeg = s.metDeg := by cases s; rfl
@[simp] theorem writeLb_metFp (s : State) : (writeLb s).metFp = s.metFp := by cases s; rfl
@[simp] theorem writeLb_t (s : State) : (writeLb s).t = s.t := by cases s; rfl
@[simp] theorem writeLb_draws (s : State) : (writeLb s).draws = s.draws := by cases s; rfl
@[simp] theorem writeLb_turns (s : State) : (writeLb s).turns = s.turns := by cases s; rfl
@[simp] theorem writeLb_host (s : State) : (writeLb s).host = s.host := by cases s; rfl
@[simp] theorem writeLb_trace (s : State) : (writeLb s).trace = s.trace := by cases s; rfl

/-! ### `writeDeg`: 44_metrics.md R116. -/

@[simp] theorem writeDeg_ie (s : State) : (writeDeg s).ie = s.ie := by cases s; rfl
@[simp] theorem writeDeg_busy (s : State) : (writeDeg s).busy = s.busy := by cases s; rfl
@[simp] theorem writeDeg_done (s : State) : (writeDeg s).done = s.done := by cases s; rfl
@[simp] theorem writeDeg_lock (s : State) : (writeDeg s).lock = s.lock := by cases s; rfl
@[simp] theorem writeDeg_halt (s : State) : (writeDeg s).halt = s.halt := by cases s; rfl
@[simp] theorem writeDeg_busyerr (s : State) : (writeDeg s).busyerr = s.busyerr := by cases s; rfl
@[simp] theorem writeDeg_cfgerr (s : State) : (writeDeg s).cfgerr = s.cfgerr := by cases s; rfl
@[simp] theorem writeDeg_err (s : State) : (writeDeg s).err = s.err := by cases s; rfl
@[simp] theorem writeDeg_cmd (s : State) : (writeDeg s).cmd = s.cmd := by cases s; rfl
@[simp] theorem writeDeg_opa (s : State) : (writeDeg s).opa = s.opa := by cases s; rfl
@[simp] theorem writeDeg_opb (s : State) : (writeDeg s).opb = s.opb := by cases s; rfl
@[simp] theorem writeDeg_res0 (s : State) : (writeDeg s).res0 = s.res0 := by cases s; rfl
@[simp] theorem writeDeg_res1 (s : State) : (writeDeg s).res1 = s.res1 := by cases s; rfl
@[simp] theorem writeDeg_mlo (s : State) : (writeDeg s).mlo = s.mlo := by cases s; rfl
@[simp] theorem writeDeg_seed (s : State) : (writeDeg s).seed = s.seed := by cases s; rfl
@[simp] theorem writeDeg_sconst (s : State) : (writeDeg s).sconst = s.sconst := by cases s; rfl
@[simp] theorem writeDeg_svalid (s : State) : (writeDeg s).svalid = s.svalid := by cases s; rfl
@[simp] theorem writeDeg_metBij (s : State) : (writeDeg s).metBij = s.metBij := by cases s; rfl
@[simp] theorem writeDeg_metNl (s : State) : (writeDeg s).metNl = s.metNl := by cases s; rfl
@[simp] theorem writeDeg_metSac (s : State) : (writeDeg s).metSac = s.metSac := by cases s; rfl
@[simp] theorem writeDeg_metDu (s : State) : (writeDeg s).metDu = s.metDu := by cases s; rfl
@[simp] theorem writeDeg_metLb (s : State) : (writeDeg s).metLb = s.metLb := by cases s; rfl
@[simp] theorem writeDeg_metDeg (s : State) : (writeDeg s).metDeg = BitVec.ofNat 4 (metricDeg s.t) := by cases s; rfl
@[simp] theorem writeDeg_metFp (s : State) : (writeDeg s).metFp = s.metFp := by cases s; rfl
@[simp] theorem writeDeg_t (s : State) : (writeDeg s).t = s.t := by cases s; rfl
@[simp] theorem writeDeg_draws (s : State) : (writeDeg s).draws = s.draws := by cases s; rfl
@[simp] theorem writeDeg_turns (s : State) : (writeDeg s).turns = s.turns := by cases s; rfl
@[simp] theorem writeDeg_host (s : State) : (writeDeg s).host = s.host := by cases s; rfl
@[simp] theorem writeDeg_trace (s : State) : (writeDeg s).trace = s.trace := by cases s; rfl

/-! ### `writeFp`: 44_metrics.md R118. -/

@[simp] theorem writeFp_ie (s : State) : (writeFp s).ie = s.ie := by cases s; rfl
@[simp] theorem writeFp_busy (s : State) : (writeFp s).busy = s.busy := by cases s; rfl
@[simp] theorem writeFp_done (s : State) : (writeFp s).done = s.done := by cases s; rfl
@[simp] theorem writeFp_lock (s : State) : (writeFp s).lock = s.lock := by cases s; rfl
@[simp] theorem writeFp_halt (s : State) : (writeFp s).halt = s.halt := by cases s; rfl
@[simp] theorem writeFp_busyerr (s : State) : (writeFp s).busyerr = s.busyerr := by cases s; rfl
@[simp] theorem writeFp_cfgerr (s : State) : (writeFp s).cfgerr = s.cfgerr := by cases s; rfl
@[simp] theorem writeFp_err (s : State) : (writeFp s).err = s.err := by cases s; rfl
@[simp] theorem writeFp_cmd (s : State) : (writeFp s).cmd = s.cmd := by cases s; rfl
@[simp] theorem writeFp_opa (s : State) : (writeFp s).opa = s.opa := by cases s; rfl
@[simp] theorem writeFp_opb (s : State) : (writeFp s).opb = s.opb := by cases s; rfl
@[simp] theorem writeFp_res0 (s : State) : (writeFp s).res0 = s.res0 := by cases s; rfl
@[simp] theorem writeFp_res1 (s : State) : (writeFp s).res1 = s.res1 := by cases s; rfl
@[simp] theorem writeFp_mlo (s : State) : (writeFp s).mlo = s.mlo := by cases s; rfl
@[simp] theorem writeFp_seed (s : State) : (writeFp s).seed = s.seed := by cases s; rfl
@[simp] theorem writeFp_sconst (s : State) : (writeFp s).sconst = s.sconst := by cases s; rfl
@[simp] theorem writeFp_svalid (s : State) : (writeFp s).svalid = s.svalid := by cases s; rfl
@[simp] theorem writeFp_metBij (s : State) : (writeFp s).metBij = s.metBij := by cases s; rfl
@[simp] theorem writeFp_metNl (s : State) : (writeFp s).metNl = s.metNl := by cases s; rfl
@[simp] theorem writeFp_metSac (s : State) : (writeFp s).metSac = s.metSac := by cases s; rfl
@[simp] theorem writeFp_metDu (s : State) : (writeFp s).metDu = s.metDu := by cases s; rfl
@[simp] theorem writeFp_metLb (s : State) : (writeFp s).metLb = s.metLb := by cases s; rfl
@[simp] theorem writeFp_metDeg (s : State) : (writeFp s).metDeg = s.metDeg := by cases s; rfl
@[simp] theorem writeFp_metFp (s : State) : (writeFp s).metFp = BitVec.ofNat 9 (metricFp s.t) := by cases s; rfl
@[simp] theorem writeFp_t (s : State) : (writeFp s).t = s.t := by cases s; rfl
@[simp] theorem writeFp_draws (s : State) : (writeFp s).draws = s.draws := by cases s; rfl
@[simp] theorem writeFp_turns (s : State) : (writeFp s).turns = s.turns := by cases s; rfl
@[simp] theorem writeFp_host (s : State) : (writeFp s).host = s.host := by cases s; rfl
@[simp] theorem writeFp_trace (s : State) : (writeFp s).trace = s.trace := by cases s; rfl

/-! ### `writeResults`: 45_mixcolumns.md R134. -/

@[simp] theorem writeResults_ie (tw sw : Word) (s : State) : (writeResults tw sw s).ie = s.ie := rfl
@[simp] theorem writeResults_busy (tw sw : Word) (s : State) : (writeResults tw sw s).busy = s.busy := rfl
@[simp] theorem writeResults_done (tw sw : Word) (s : State) : (writeResults tw sw s).done = s.done := rfl
@[simp] theorem writeResults_lock (tw sw : Word) (s : State) : (writeResults tw sw s).lock = s.lock := rfl
@[simp] theorem writeResults_halt (tw sw : Word) (s : State) : (writeResults tw sw s).halt = s.halt := rfl
@[simp] theorem writeResults_busyerr (tw sw : Word) (s : State) : (writeResults tw sw s).busyerr = s.busyerr := rfl
@[simp] theorem writeResults_cfgerr (tw sw : Word) (s : State) : (writeResults tw sw s).cfgerr = s.cfgerr := rfl
@[simp] theorem writeResults_err (tw sw : Word) (s : State) : (writeResults tw sw s).err = s.err := rfl
@[simp] theorem writeResults_cmd (tw sw : Word) (s : State) : (writeResults tw sw s).cmd = s.cmd := rfl
@[simp] theorem writeResults_opa (tw sw : Word) (s : State) : (writeResults tw sw s).opa = s.opa := rfl
@[simp] theorem writeResults_opb (tw sw : Word) (s : State) : (writeResults tw sw s).opb = s.opb := rfl
@[simp] theorem writeResults_res0 (tw sw : Word) (s : State) : (writeResults tw sw s).res0 = tw := rfl
@[simp] theorem writeResults_res1 (tw sw : Word) (s : State) : (writeResults tw sw s).res1 = sw := rfl
@[simp] theorem writeResults_mlo (tw sw : Word) (s : State) : (writeResults tw sw s).mlo = s.mlo := rfl
@[simp] theorem writeResults_seed (tw sw : Word) (s : State) : (writeResults tw sw s).seed = s.seed := rfl
@[simp] theorem writeResults_sconst (tw sw : Word) (s : State) : (writeResults tw sw s).sconst = s.sconst := rfl
@[simp] theorem writeResults_svalid (tw sw : Word) (s : State) : (writeResults tw sw s).svalid = s.svalid := rfl
@[simp] theorem writeResults_metBij (tw sw : Word) (s : State) : (writeResults tw sw s).metBij = s.metBij := rfl
@[simp] theorem writeResults_metNl (tw sw : Word) (s : State) : (writeResults tw sw s).metNl = s.metNl := rfl
@[simp] theorem writeResults_metSac (tw sw : Word) (s : State) : (writeResults tw sw s).metSac = s.metSac := rfl
@[simp] theorem writeResults_metDu (tw sw : Word) (s : State) : (writeResults tw sw s).metDu = s.metDu := rfl
@[simp] theorem writeResults_metLb (tw sw : Word) (s : State) : (writeResults tw sw s).metLb = s.metLb := rfl
@[simp] theorem writeResults_metDeg (tw sw : Word) (s : State) : (writeResults tw sw s).metDeg = s.metDeg := rfl
@[simp] theorem writeResults_metFp (tw sw : Word) (s : State) : (writeResults tw sw s).metFp = s.metFp := rfl
@[simp] theorem writeResults_t (tw sw : Word) (s : State) : (writeResults tw sw s).t = s.t := rfl
@[simp] theorem writeResults_draws (tw sw : Word) (s : State) : (writeResults tw sw s).draws = s.draws := rfl
@[simp] theorem writeResults_turns (tw sw : Word) (s : State) : (writeResults tw sw s).turns = s.turns := rfl
@[simp] theorem writeResults_host (tw sw : Word) (s : State) : (writeResults tw sw s).host = s.host := rfl
@[simp] theorem writeResults_trace (tw sw : Word) (s : State) : (writeResults tw sw s).trace = s.trace := rfl

/-! ### `diverge`: 45_mixcolumns.md R134; 60_exceptions.md R142. -/

@[simp] theorem diverge_ie (s : State) : (diverge s).ie = s.ie := rfl
@[simp] theorem diverge_busy (s : State) : (diverge s).busy = s.busy := rfl
@[simp] theorem diverge_done (s : State) : (diverge s).done = s.done := rfl
@[simp] theorem diverge_lock (s : State) : (diverge s).lock = s.lock := rfl
@[simp] theorem diverge_halt (s : State) : (diverge s).halt = true := rfl
@[simp] theorem diverge_busyerr (s : State) : (diverge s).busyerr = s.busyerr := rfl
@[simp] theorem diverge_cfgerr (s : State) : (diverge s).cfgerr = s.cfgerr := rfl
@[simp] theorem diverge_err (s : State) : (diverge s).err = 5 := rfl
@[simp] theorem diverge_cmd (s : State) : (diverge s).cmd = s.cmd := rfl
@[simp] theorem diverge_opa (s : State) : (diverge s).opa = s.opa := rfl
@[simp] theorem diverge_opb (s : State) : (diverge s).opb = s.opb := rfl
@[simp] theorem diverge_res0 (s : State) : (diverge s).res0 = s.res0 := rfl
@[simp] theorem diverge_res1 (s : State) : (diverge s).res1 = s.res1 := rfl
@[simp] theorem diverge_mlo (s : State) : (diverge s).mlo = s.mlo := rfl
@[simp] theorem diverge_seed (s : State) : (diverge s).seed = s.seed := rfl
@[simp] theorem diverge_sconst (s : State) : (diverge s).sconst = s.sconst := rfl
@[simp] theorem diverge_svalid (s : State) : (diverge s).svalid = s.svalid := rfl
@[simp] theorem diverge_metBij (s : State) : (diverge s).metBij = s.metBij := rfl
@[simp] theorem diverge_metNl (s : State) : (diverge s).metNl = s.metNl := rfl
@[simp] theorem diverge_metSac (s : State) : (diverge s).metSac = s.metSac := rfl
@[simp] theorem diverge_metDu (s : State) : (diverge s).metDu = s.metDu := rfl
@[simp] theorem diverge_metLb (s : State) : (diverge s).metLb = s.metLb := rfl
@[simp] theorem diverge_metDeg (s : State) : (diverge s).metDeg = s.metDeg := rfl
@[simp] theorem diverge_metFp (s : State) : (diverge s).metFp = s.metFp := rfl
@[simp] theorem diverge_t (s : State) : (diverge s).t = s.t := rfl
@[simp] theorem diverge_draws (s : State) : (diverge s).draws = s.draws := rfl
@[simp] theorem diverge_turns (s : State) : (diverge s).turns = s.turns := rfl
@[simp] theorem diverge_host (s : State) : (diverge s).host = s.host := rfl
@[simp] theorem diverge_trace (s : State) : (diverge s).trace = s.trace := rfl

/-! ### `setOpa`: 10_state.md R29. -/

@[simp] theorem setOpa_ie (w : Word) (s : State) : (setOpa w s).ie = s.ie := rfl
@[simp] theorem setOpa_busy (w : Word) (s : State) : (setOpa w s).busy = s.busy := rfl
@[simp] theorem setOpa_done (w : Word) (s : State) : (setOpa w s).done = s.done := rfl
@[simp] theorem setOpa_lock (w : Word) (s : State) : (setOpa w s).lock = s.lock := rfl
@[simp] theorem setOpa_halt (w : Word) (s : State) : (setOpa w s).halt = s.halt := rfl
@[simp] theorem setOpa_busyerr (w : Word) (s : State) : (setOpa w s).busyerr = s.busyerr := rfl
@[simp] theorem setOpa_cfgerr (w : Word) (s : State) : (setOpa w s).cfgerr = s.cfgerr := rfl
@[simp] theorem setOpa_err (w : Word) (s : State) : (setOpa w s).err = s.err := rfl
@[simp] theorem setOpa_cmd (w : Word) (s : State) : (setOpa w s).cmd = s.cmd := rfl
@[simp] theorem setOpa_opa (w : Word) (s : State) : (setOpa w s).opa = w := rfl
@[simp] theorem setOpa_opb (w : Word) (s : State) : (setOpa w s).opb = s.opb := rfl
@[simp] theorem setOpa_res0 (w : Word) (s : State) : (setOpa w s).res0 = s.res0 := rfl
@[simp] theorem setOpa_res1 (w : Word) (s : State) : (setOpa w s).res1 = s.res1 := rfl
@[simp] theorem setOpa_mlo (w : Word) (s : State) : (setOpa w s).mlo = s.mlo := rfl
@[simp] theorem setOpa_seed (w : Word) (s : State) : (setOpa w s).seed = s.seed := rfl
@[simp] theorem setOpa_sconst (w : Word) (s : State) : (setOpa w s).sconst = s.sconst := rfl
@[simp] theorem setOpa_svalid (w : Word) (s : State) : (setOpa w s).svalid = s.svalid := rfl
@[simp] theorem setOpa_metBij (w : Word) (s : State) : (setOpa w s).metBij = s.metBij := rfl
@[simp] theorem setOpa_metNl (w : Word) (s : State) : (setOpa w s).metNl = s.metNl := rfl
@[simp] theorem setOpa_metSac (w : Word) (s : State) : (setOpa w s).metSac = s.metSac := rfl
@[simp] theorem setOpa_metDu (w : Word) (s : State) : (setOpa w s).metDu = s.metDu := rfl
@[simp] theorem setOpa_metLb (w : Word) (s : State) : (setOpa w s).metLb = s.metLb := rfl
@[simp] theorem setOpa_metDeg (w : Word) (s : State) : (setOpa w s).metDeg = s.metDeg := rfl
@[simp] theorem setOpa_metFp (w : Word) (s : State) : (setOpa w s).metFp = s.metFp := rfl
@[simp] theorem setOpa_t (w : Word) (s : State) : (setOpa w s).t = s.t := rfl
@[simp] theorem setOpa_draws (w : Word) (s : State) : (setOpa w s).draws = s.draws := rfl
@[simp] theorem setOpa_turns (w : Word) (s : State) : (setOpa w s).turns = s.turns := rfl
@[simp] theorem setOpa_host (w : Word) (s : State) : (setOpa w s).host = s.host := rfl
@[simp] theorem setOpa_trace (w : Word) (s : State) : (setOpa w s).trace = s.trace := rfl

/-! ### `setOpb`: 10_state.md R30. -/

@[simp] theorem setOpb_ie (w : Word) (s : State) : (setOpb w s).ie = s.ie := rfl
@[simp] theorem setOpb_busy (w : Word) (s : State) : (setOpb w s).busy = s.busy := rfl
@[simp] theorem setOpb_done (w : Word) (s : State) : (setOpb w s).done = s.done := rfl
@[simp] theorem setOpb_lock (w : Word) (s : State) : (setOpb w s).lock = s.lock := rfl
@[simp] theorem setOpb_halt (w : Word) (s : State) : (setOpb w s).halt = s.halt := rfl
@[simp] theorem setOpb_busyerr (w : Word) (s : State) : (setOpb w s).busyerr = s.busyerr := rfl
@[simp] theorem setOpb_cfgerr (w : Word) (s : State) : (setOpb w s).cfgerr = s.cfgerr := rfl
@[simp] theorem setOpb_err (w : Word) (s : State) : (setOpb w s).err = s.err := rfl
@[simp] theorem setOpb_cmd (w : Word) (s : State) : (setOpb w s).cmd = s.cmd := rfl
@[simp] theorem setOpb_opa (w : Word) (s : State) : (setOpb w s).opa = s.opa := rfl
@[simp] theorem setOpb_opb (w : Word) (s : State) : (setOpb w s).opb = w := rfl
@[simp] theorem setOpb_res0 (w : Word) (s : State) : (setOpb w s).res0 = s.res0 := rfl
@[simp] theorem setOpb_res1 (w : Word) (s : State) : (setOpb w s).res1 = s.res1 := rfl
@[simp] theorem setOpb_mlo (w : Word) (s : State) : (setOpb w s).mlo = s.mlo := rfl
@[simp] theorem setOpb_seed (w : Word) (s : State) : (setOpb w s).seed = s.seed := rfl
@[simp] theorem setOpb_sconst (w : Word) (s : State) : (setOpb w s).sconst = s.sconst := rfl
@[simp] theorem setOpb_svalid (w : Word) (s : State) : (setOpb w s).svalid = s.svalid := rfl
@[simp] theorem setOpb_metBij (w : Word) (s : State) : (setOpb w s).metBij = s.metBij := rfl
@[simp] theorem setOpb_metNl (w : Word) (s : State) : (setOpb w s).metNl = s.metNl := rfl
@[simp] theorem setOpb_metSac (w : Word) (s : State) : (setOpb w s).metSac = s.metSac := rfl
@[simp] theorem setOpb_metDu (w : Word) (s : State) : (setOpb w s).metDu = s.metDu := rfl
@[simp] theorem setOpb_metLb (w : Word) (s : State) : (setOpb w s).metLb = s.metLb := rfl
@[simp] theorem setOpb_metDeg (w : Word) (s : State) : (setOpb w s).metDeg = s.metDeg := rfl
@[simp] theorem setOpb_metFp (w : Word) (s : State) : (setOpb w s).metFp = s.metFp := rfl
@[simp] theorem setOpb_t (w : Word) (s : State) : (setOpb w s).t = s.t := rfl
@[simp] theorem setOpb_draws (w : Word) (s : State) : (setOpb w s).draws = s.draws := rfl
@[simp] theorem setOpb_turns (w : Word) (s : State) : (setOpb w s).turns = s.turns := rfl
@[simp] theorem setOpb_host (w : Word) (s : State) : (setOpb w s).host = s.host := rfl
@[simp] theorem setOpb_trace (w : Word) (s : State) : (setOpb w s).trace = s.trace := rfl

/-! ### `setMlo`: 10_state.md R24. -/

@[simp] theorem setMlo_ie (b : Byte) (s : State) : (setMlo b s).ie = s.ie := rfl
@[simp] theorem setMlo_busy (b : Byte) (s : State) : (setMlo b s).busy = s.busy := rfl
@[simp] theorem setMlo_done (b : Byte) (s : State) : (setMlo b s).done = s.done := rfl
@[simp] theorem setMlo_lock (b : Byte) (s : State) : (setMlo b s).lock = s.lock := rfl
@[simp] theorem setMlo_halt (b : Byte) (s : State) : (setMlo b s).halt = s.halt := rfl
@[simp] theorem setMlo_busyerr (b : Byte) (s : State) : (setMlo b s).busyerr = s.busyerr := rfl
@[simp] theorem setMlo_cfgerr (b : Byte) (s : State) : (setMlo b s).cfgerr = s.cfgerr := rfl
@[simp] theorem setMlo_err (b : Byte) (s : State) : (setMlo b s).err = s.err := rfl
@[simp] theorem setMlo_cmd (b : Byte) (s : State) : (setMlo b s).cmd = s.cmd := rfl
@[simp] theorem setMlo_opa (b : Byte) (s : State) : (setMlo b s).opa = s.opa := rfl
@[simp] theorem setMlo_opb (b : Byte) (s : State) : (setMlo b s).opb = s.opb := rfl
@[simp] theorem setMlo_res0 (b : Byte) (s : State) : (setMlo b s).res0 = s.res0 := rfl
@[simp] theorem setMlo_res1 (b : Byte) (s : State) : (setMlo b s).res1 = s.res1 := rfl
@[simp] theorem setMlo_mlo (b : Byte) (s : State) : (setMlo b s).mlo = b := rfl
@[simp] theorem setMlo_seed (b : Byte) (s : State) : (setMlo b s).seed = s.seed := rfl
@[simp] theorem setMlo_sconst (b : Byte) (s : State) : (setMlo b s).sconst = s.sconst := rfl
@[simp] theorem setMlo_svalid (b : Byte) (s : State) : (setMlo b s).svalid = s.svalid := rfl
@[simp] theorem setMlo_metBij (b : Byte) (s : State) : (setMlo b s).metBij = s.metBij := rfl
@[simp] theorem setMlo_metNl (b : Byte) (s : State) : (setMlo b s).metNl = s.metNl := rfl
@[simp] theorem setMlo_metSac (b : Byte) (s : State) : (setMlo b s).metSac = s.metSac := rfl
@[simp] theorem setMlo_metDu (b : Byte) (s : State) : (setMlo b s).metDu = s.metDu := rfl
@[simp] theorem setMlo_metLb (b : Byte) (s : State) : (setMlo b s).metLb = s.metLb := rfl
@[simp] theorem setMlo_metDeg (b : Byte) (s : State) : (setMlo b s).metDeg = s.metDeg := rfl
@[simp] theorem setMlo_metFp (b : Byte) (s : State) : (setMlo b s).metFp = s.metFp := rfl
@[simp] theorem setMlo_t (b : Byte) (s : State) : (setMlo b s).t = s.t := rfl
@[simp] theorem setMlo_draws (b : Byte) (s : State) : (setMlo b s).draws = s.draws := rfl
@[simp] theorem setMlo_turns (b : Byte) (s : State) : (setMlo b s).turns = s.turns := rfl
@[simp] theorem setMlo_host (b : Byte) (s : State) : (setMlo b s).host = s.host := rfl
@[simp] theorem setMlo_trace (b : Byte) (s : State) : (setMlo b s).trace = s.trace := rfl

/-! ### `setSeed`: 10_state.md R26. -/

@[simp] theorem setSeed_ie (b : Byte) (s : State) : (setSeed b s).ie = s.ie := rfl
@[simp] theorem setSeed_busy (b : Byte) (s : State) : (setSeed b s).busy = s.busy := rfl
@[simp] theorem setSeed_done (b : Byte) (s : State) : (setSeed b s).done = s.done := rfl
@[simp] theorem setSeed_lock (b : Byte) (s : State) : (setSeed b s).lock = s.lock := rfl
@[simp] theorem setSeed_halt (b : Byte) (s : State) : (setSeed b s).halt = s.halt := rfl
@[simp] theorem setSeed_busyerr (b : Byte) (s : State) : (setSeed b s).busyerr = s.busyerr := rfl
@[simp] theorem setSeed_cfgerr (b : Byte) (s : State) : (setSeed b s).cfgerr = s.cfgerr := rfl
@[simp] theorem setSeed_err (b : Byte) (s : State) : (setSeed b s).err = s.err := rfl
@[simp] theorem setSeed_cmd (b : Byte) (s : State) : (setSeed b s).cmd = s.cmd := rfl
@[simp] theorem setSeed_opa (b : Byte) (s : State) : (setSeed b s).opa = s.opa := rfl
@[simp] theorem setSeed_opb (b : Byte) (s : State) : (setSeed b s).opb = s.opb := rfl
@[simp] theorem setSeed_res0 (b : Byte) (s : State) : (setSeed b s).res0 = s.res0 := rfl
@[simp] theorem setSeed_res1 (b : Byte) (s : State) : (setSeed b s).res1 = s.res1 := rfl
@[simp] theorem setSeed_mlo (b : Byte) (s : State) : (setSeed b s).mlo = s.mlo := rfl
@[simp] theorem setSeed_seed (b : Byte) (s : State) : (setSeed b s).seed = b := rfl
@[simp] theorem setSeed_sconst (b : Byte) (s : State) : (setSeed b s).sconst = s.sconst := rfl
@[simp] theorem setSeed_svalid (b : Byte) (s : State) : (setSeed b s).svalid = s.svalid := rfl
@[simp] theorem setSeed_metBij (b : Byte) (s : State) : (setSeed b s).metBij = s.metBij := rfl
@[simp] theorem setSeed_metNl (b : Byte) (s : State) : (setSeed b s).metNl = s.metNl := rfl
@[simp] theorem setSeed_metSac (b : Byte) (s : State) : (setSeed b s).metSac = s.metSac := rfl
@[simp] theorem setSeed_metDu (b : Byte) (s : State) : (setSeed b s).metDu = s.metDu := rfl
@[simp] theorem setSeed_metLb (b : Byte) (s : State) : (setSeed b s).metLb = s.metLb := rfl
@[simp] theorem setSeed_metDeg (b : Byte) (s : State) : (setSeed b s).metDeg = s.metDeg := rfl
@[simp] theorem setSeed_metFp (b : Byte) (s : State) : (setSeed b s).metFp = s.metFp := rfl
@[simp] theorem setSeed_t (b : Byte) (s : State) : (setSeed b s).t = s.t := rfl
@[simp] theorem setSeed_draws (b : Byte) (s : State) : (setSeed b s).draws = s.draws := rfl
@[simp] theorem setSeed_turns (b : Byte) (s : State) : (setSeed b s).turns = s.turns := rfl
@[simp] theorem setSeed_host (b : Byte) (s : State) : (setSeed b s).host = s.host := rfl
@[simp] theorem setSeed_trace (b : Byte) (s : State) : (setSeed b s).trace = s.trace := rfl

/-! ### `storeSbox`: 20_memory.md R50. -/

@[simp] theorem storeSbox_ie (k : Fin 64) (w : Word) (s : State) : (storeSbox k w s).ie = s.ie := rfl
@[simp] theorem storeSbox_busy (k : Fin 64) (w : Word) (s : State) : (storeSbox k w s).busy = s.busy := rfl
@[simp] theorem storeSbox_done (k : Fin 64) (w : Word) (s : State) : (storeSbox k w s).done = s.done := rfl
@[simp] theorem storeSbox_lock (k : Fin 64) (w : Word) (s : State) : (storeSbox k w s).lock = s.lock := rfl
@[simp] theorem storeSbox_halt (k : Fin 64) (w : Word) (s : State) : (storeSbox k w s).halt = s.halt := rfl
@[simp] theorem storeSbox_busyerr (k : Fin 64) (w : Word) (s : State) : (storeSbox k w s).busyerr = s.busyerr := rfl
@[simp] theorem storeSbox_cfgerr (k : Fin 64) (w : Word) (s : State) : (storeSbox k w s).cfgerr = s.cfgerr := rfl
@[simp] theorem storeSbox_err (k : Fin 64) (w : Word) (s : State) : (storeSbox k w s).err = s.err := rfl
@[simp] theorem storeSbox_cmd (k : Fin 64) (w : Word) (s : State) : (storeSbox k w s).cmd = s.cmd := rfl
@[simp] theorem storeSbox_opa (k : Fin 64) (w : Word) (s : State) : (storeSbox k w s).opa = s.opa := rfl
@[simp] theorem storeSbox_opb (k : Fin 64) (w : Word) (s : State) : (storeSbox k w s).opb = s.opb := rfl
@[simp] theorem storeSbox_res0 (k : Fin 64) (w : Word) (s : State) : (storeSbox k w s).res0 = s.res0 := rfl
@[simp] theorem storeSbox_res1 (k : Fin 64) (w : Word) (s : State) : (storeSbox k w s).res1 = s.res1 := rfl
@[simp] theorem storeSbox_mlo (k : Fin 64) (w : Word) (s : State) : (storeSbox k w s).mlo = s.mlo := rfl
@[simp] theorem storeSbox_seed (k : Fin 64) (w : Word) (s : State) : (storeSbox k w s).seed = s.seed := rfl
@[simp] theorem storeSbox_sconst (k : Fin 64) (w : Word) (s : State) : (storeSbox k w s).sconst = s.sconst := rfl
@[simp] theorem storeSbox_svalid (k : Fin 64) (w : Word) (s : State) : (storeSbox k w s).svalid = false := rfl
@[simp] theorem storeSbox_metBij (k : Fin 64) (w : Word) (s : State) : (storeSbox k w s).metBij = s.metBij := rfl
@[simp] theorem storeSbox_metNl (k : Fin 64) (w : Word) (s : State) : (storeSbox k w s).metNl = s.metNl := rfl
@[simp] theorem storeSbox_metSac (k : Fin 64) (w : Word) (s : State) : (storeSbox k w s).metSac = s.metSac := rfl
@[simp] theorem storeSbox_metDu (k : Fin 64) (w : Word) (s : State) : (storeSbox k w s).metDu = s.metDu := rfl
@[simp] theorem storeSbox_metLb (k : Fin 64) (w : Word) (s : State) : (storeSbox k w s).metLb = s.metLb := rfl
@[simp] theorem storeSbox_metDeg (k : Fin 64) (w : Word) (s : State) : (storeSbox k w s).metDeg = s.metDeg := rfl
@[simp] theorem storeSbox_metFp (k : Fin 64) (w : Word) (s : State) : (storeSbox k w s).metFp = s.metFp := rfl
@[simp] theorem storeSbox_t (k : Fin 64) (w : Word) (s : State) : (storeSbox k w s).t = sboxStore s.t k w := rfl
@[simp] theorem storeSbox_draws (k : Fin 64) (w : Word) (s : State) : (storeSbox k w s).draws = s.draws := rfl
@[simp] theorem storeSbox_turns (k : Fin 64) (w : Word) (s : State) : (storeSbox k w s).turns = s.turns := rfl
@[simp] theorem storeSbox_host (k : Fin 64) (w : Word) (s : State) : (storeSbox k w s).host = s.host := rfl
@[simp] theorem storeSbox_trace (k : Fin 64) (w : Word) (s : State) : (storeSbox k w s).trace = s.trace := rfl

/-! ### `accept`: Acceptance (40_command.md R69). -/

@[simp] theorem accept_ie (w : Word) (s : State) : (accept w s).ie = s.ie := rfl
@[simp] theorem accept_busy (w : Word) (s : State) : (accept w s).busy = true := rfl
@[simp] theorem accept_done (w : Word) (s : State) : (accept w s).done = false := rfl
@[simp] theorem accept_lock (w : Word) (s : State) : (accept w s).lock = true := rfl
@[simp] theorem accept_halt (w : Word) (s : State) : (accept w s).halt = s.halt := rfl
@[simp] theorem accept_busyerr (w : Word) (s : State) : (accept w s).busyerr = s.busyerr := rfl
@[simp] theorem accept_cfgerr (w : Word) (s : State) : (accept w s).cfgerr = s.cfgerr := rfl
@[simp] theorem accept_err (w : Word) (s : State) : (accept w s).err = 0 := rfl
@[simp] theorem accept_cmd (w : Word) (s : State) : (accept w s).cmd = w := rfl
@[simp] theorem accept_opa (w : Word) (s : State) : (accept w s).opa = s.opa := rfl
@[simp] theorem accept_opb (w : Word) (s : State) : (accept w s).opb = s.opb := rfl
@[simp] theorem accept_res0 (w : Word) (s : State) : (accept w s).res0 = s.res0 := rfl
@[simp] theorem accept_res1 (w : Word) (s : State) : (accept w s).res1 = s.res1 := rfl
@[simp] theorem accept_mlo (w : Word) (s : State) : (accept w s).mlo = s.mlo := rfl
@[simp] theorem accept_seed (w : Word) (s : State) : (accept w s).seed = s.seed := rfl
@[simp] theorem accept_sconst (w : Word) (s : State) : (accept w s).sconst = s.sconst := rfl
@[simp] theorem accept_svalid (w : Word) (s : State) : (accept w s).svalid = s.svalid := rfl
@[simp] theorem accept_metBij (w : Word) (s : State) : (accept w s).metBij = s.metBij := rfl
@[simp] theorem accept_metNl (w : Word) (s : State) : (accept w s).metNl = s.metNl := rfl
@[simp] theorem accept_metSac (w : Word) (s : State) : (accept w s).metSac = s.metSac := rfl
@[simp] theorem accept_metDu (w : Word) (s : State) : (accept w s).metDu = s.metDu := rfl
@[simp] theorem accept_metLb (w : Word) (s : State) : (accept w s).metLb = s.metLb := rfl
@[simp] theorem accept_metDeg (w : Word) (s : State) : (accept w s).metDeg = s.metDeg := rfl
@[simp] theorem accept_metFp (w : Word) (s : State) : (accept w s).metFp = s.metFp := rfl
@[simp] theorem accept_t (w : Word) (s : State) : (accept w s).t = s.t := rfl
@[simp] theorem accept_draws (w : Word) (s : State) : (accept w s).draws = s.draws := rfl
@[simp] theorem accept_turns (w : Word) (s : State) : (accept w s).turns = s.turns := rfl
@[simp] theorem accept_host (w : Word) (s : State) : (accept w s).host = s.host := rfl
@[simp] theorem accept_trace (w : Word) (s : State) : (accept w s).trace = s.trace := rfl

/-! ### `acknowledge`: The acknowledge (60_exceptions.md R148). -/

@[simp] theorem acknowledge_ie (s : State) : (acknowledge s).ie = s.ie := rfl
@[simp] theorem acknowledge_busy (s : State) : (acknowledge s).busy = s.busy := rfl
@[simp] theorem acknowledge_done (s : State) : (acknowledge s).done = false := rfl
@[simp] theorem acknowledge_lock (s : State) : (acknowledge s).lock = s.lock := rfl
@[simp] theorem acknowledge_halt (s : State) : (acknowledge s).halt = s.halt := rfl
@[simp] theorem acknowledge_busyerr (s : State) : (acknowledge s).busyerr = false := rfl
@[simp] theorem acknowledge_cfgerr (s : State) : (acknowledge s).cfgerr = false := rfl
@[simp] theorem acknowledge_err (s : State) : (acknowledge s).err = if s.halt then s.err else 0 := rfl
@[simp] theorem acknowledge_cmd (s : State) : (acknowledge s).cmd = s.cmd := rfl
@[simp] theorem acknowledge_opa (s : State) : (acknowledge s).opa = s.opa := rfl
@[simp] theorem acknowledge_opb (s : State) : (acknowledge s).opb = s.opb := rfl
@[simp] theorem acknowledge_res0 (s : State) : (acknowledge s).res0 = s.res0 := rfl
@[simp] theorem acknowledge_res1 (s : State) : (acknowledge s).res1 = s.res1 := rfl
@[simp] theorem acknowledge_mlo (s : State) : (acknowledge s).mlo = s.mlo := rfl
@[simp] theorem acknowledge_seed (s : State) : (acknowledge s).seed = s.seed := rfl
@[simp] theorem acknowledge_sconst (s : State) : (acknowledge s).sconst = s.sconst := rfl
@[simp] theorem acknowledge_svalid (s : State) : (acknowledge s).svalid = s.svalid := rfl
@[simp] theorem acknowledge_metBij (s : State) : (acknowledge s).metBij = s.metBij := rfl
@[simp] theorem acknowledge_metNl (s : State) : (acknowledge s).metNl = s.metNl := rfl
@[simp] theorem acknowledge_metSac (s : State) : (acknowledge s).metSac = s.metSac := rfl
@[simp] theorem acknowledge_metDu (s : State) : (acknowledge s).metDu = s.metDu := rfl
@[simp] theorem acknowledge_metLb (s : State) : (acknowledge s).metLb = s.metLb := rfl
@[simp] theorem acknowledge_metDeg (s : State) : (acknowledge s).metDeg = s.metDeg := rfl
@[simp] theorem acknowledge_metFp (s : State) : (acknowledge s).metFp = s.metFp := rfl
@[simp] theorem acknowledge_t (s : State) : (acknowledge s).t = s.t := rfl
@[simp] theorem acknowledge_draws (s : State) : (acknowledge s).draws = s.draws := rfl
@[simp] theorem acknowledge_turns (s : State) : (acknowledge s).turns = s.turns := rfl
@[simp] theorem acknowledge_host (s : State) : (acknowledge s).host = s.host := rfl
@[simp] theorem acknowledge_trace (s : State) : (acknowledge s).trace = s.trace := rfl

/-! ### `installTable`: A built table with its constant (43_sbox.md R97, R98). -/

@[simp] theorem installTable_ie (c : Byte) (s : State) : (installTable c s).ie = s.ie := rfl
@[simp] theorem installTable_busy (c : Byte) (s : State) : (installTable c s).busy = s.busy := rfl
@[simp] theorem installTable_done (c : Byte) (s : State) : (installTable c s).done = s.done := rfl
@[simp] theorem installTable_lock (c : Byte) (s : State) : (installTable c s).lock = s.lock := rfl
@[simp] theorem installTable_halt (c : Byte) (s : State) : (installTable c s).halt = s.halt := rfl
@[simp] theorem installTable_busyerr (c : Byte) (s : State) : (installTable c s).busyerr = s.busyerr := rfl
@[simp] theorem installTable_cfgerr (c : Byte) (s : State) : (installTable c s).cfgerr = s.cfgerr := rfl
@[simp] theorem installTable_err (c : Byte) (s : State) : (installTable c s).err = s.err := rfl
@[simp] theorem installTable_cmd (c : Byte) (s : State) : (installTable c s).cmd = s.cmd := rfl
@[simp] theorem installTable_opa (c : Byte) (s : State) : (installTable c s).opa = s.opa := rfl
@[simp] theorem installTable_opb (c : Byte) (s : State) : (installTable c s).opb = s.opb := rfl
@[simp] theorem installTable_res0 (c : Byte) (s : State) : (installTable c s).res0 = s.res0 := rfl
@[simp] theorem installTable_res1 (c : Byte) (s : State) : (installTable c s).res1 = s.res1 := rfl
@[simp] theorem installTable_mlo (c : Byte) (s : State) : (installTable c s).mlo = s.mlo := rfl
@[simp] theorem installTable_seed (c : Byte) (s : State) : (installTable c s).seed = s.seed := rfl
@[simp] theorem installTable_sconst (c : Byte) (s : State) : (installTable c s).sconst = c := rfl
@[simp] theorem installTable_svalid (c : Byte) (s : State) : (installTable c s).svalid = true := rfl
@[simp] theorem installTable_metBij (c : Byte) (s : State) : (installTable c s).metBij = s.metBij := rfl
@[simp] theorem installTable_metNl (c : Byte) (s : State) : (installTable c s).metNl = s.metNl := rfl
@[simp] theorem installTable_metSac (c : Byte) (s : State) : (installTable c s).metSac = s.metSac := rfl
@[simp] theorem installTable_metDu (c : Byte) (s : State) : (installTable c s).metDu = s.metDu := rfl
@[simp] theorem installTable_metLb (c : Byte) (s : State) : (installTable c s).metLb = s.metLb := rfl
@[simp] theorem installTable_metDeg (c : Byte) (s : State) : (installTable c s).metDeg = s.metDeg := rfl
@[simp] theorem installTable_metFp (c : Byte) (s : State) : (installTable c s).metFp = s.metFp := rfl
@[simp] theorem installTable_t (c : Byte) (s : State) : (installTable c s).t = build s.mlo s.seed c := rfl
@[simp] theorem installTable_draws (c : Byte) (s : State) : (installTable c s).draws = s.draws := rfl
@[simp] theorem installTable_turns (c : Byte) (s : State) : (installTable c s).turns = s.turns := rfl
@[simp] theorem installTable_host (c : Byte) (s : State) : (installTable c s).host = s.host := rfl
@[simp] theorem installTable_trace (c : Byte) (s : State) : (installTable c s).trace = s.trace := rfl

/-! ### `resetBlock`: `Reset()` (70_reset_and_hazards.md R153; 10_state.md R40). -/

@[simp] theorem resetBlock_ie (s : State) : (resetBlock s).ie = false := rfl
@[simp] theorem resetBlock_busy (s : State) : (resetBlock s).busy = false := rfl
@[simp] theorem resetBlock_done (s : State) : (resetBlock s).done = false := rfl
@[simp] theorem resetBlock_lock (s : State) : (resetBlock s).lock = false := rfl
@[simp] theorem resetBlock_halt (s : State) : (resetBlock s).halt = false := rfl
@[simp] theorem resetBlock_busyerr (s : State) : (resetBlock s).busyerr = false := rfl
@[simp] theorem resetBlock_cfgerr (s : State) : (resetBlock s).cfgerr = false := rfl
@[simp] theorem resetBlock_err (s : State) : (resetBlock s).err = 0 := rfl
@[simp] theorem resetBlock_cmd (s : State) : (resetBlock s).cmd = 0 := rfl
@[simp] theorem resetBlock_opa (s : State) : (resetBlock s).opa = 0 := rfl
@[simp] theorem resetBlock_opb (s : State) : (resetBlock s).opb = 0 := rfl
@[simp] theorem resetBlock_res0 (s : State) : (resetBlock s).res0 = 0 := rfl
@[simp] theorem resetBlock_res1 (s : State) : (resetBlock s).res1 = 0 := rfl
@[simp] theorem resetBlock_mlo (s : State) : (resetBlock s).mlo = 0x1B := rfl
@[simp] theorem resetBlock_seed (s : State) : (resetBlock s).seed = 0xF1 := rfl
@[simp] theorem resetBlock_sconst (s : State) : (resetBlock s).sconst = 0 := rfl
@[simp] theorem resetBlock_svalid (s : State) : (resetBlock s).svalid = false := rfl
@[simp] theorem resetBlock_metBij (s : State) : (resetBlock s).metBij = 0 := rfl
@[simp] theorem resetBlock_metNl (s : State) : (resetBlock s).metNl = 0 := rfl
@[simp] theorem resetBlock_metSac (s : State) : (resetBlock s).metSac = 0 := rfl
@[simp] theorem resetBlock_metDu (s : State) : (resetBlock s).metDu = 0 := rfl
@[simp] theorem resetBlock_metLb (s : State) : (resetBlock s).metLb = 0 := rfl
@[simp] theorem resetBlock_metDeg (s : State) : (resetBlock s).metDeg = 0 := rfl
@[simp] theorem resetBlock_metFp (s : State) : (resetBlock s).metFp = 0 := rfl
@[simp] theorem resetBlock_t (s : State) : (resetBlock s).t = freeTable s.draws := rfl
@[simp] theorem resetBlock_draws (s : State) : (resetBlock s).draws = s.draws + 1 := rfl
@[simp] theorem resetBlock_turns (s : State) : (resetBlock s).turns = s.turns := rfl
@[simp] theorem resetBlock_host (s : State) : (resetBlock s).host = s.host := rfl
@[simp] theorem resetBlock_trace (s : State) : (resetBlock s).trace = s.trace := rfl

end Sys2Proof.Machine
end

