-- ==== Sys2Proof/Laws/Ops.lean ====
section
/-! SUPPORT. One lemma per shared operation that says once everything it can do. -/

namespace Sys2Proof.Machine

/-! ### Completion -/

/-- A completion whose operand check passes runs the body (40_command.md R71). -/
theorem complete_ok {i : Instr} {body : State → State} {s : State} (h : operandsOk (form i) s = true) :
    complete i body s = .next (finish (body s)) := by simp [complete, h]

/-- A completion whose operand check fails reports OPERAND (40_command.md R71). -/
theorem complete_bad {i : Instr} {body : State → State} {s : State} (h : operandsOk (form i) s = false) :
    complete i body s = .next (finish (setErr .operand s)) := by simp [complete, h]

/-- A completion answers a next state, from the body or from the operand error. -/
theorem complete_cases {i : Instr} {body : State → State} {s t : State} (h : complete i body s = .next t) :
    (operandsOk (form i) s = true ∧ t = finish (body s)) ∨
      (operandsOk (form i) s = false ∧ t = finish (setErr .operand s)) := by
  cases hok : operandsOk (form i) s
  · exact .inr ⟨rfl, by simpa [complete_bad hok] using h.symm⟩
  · exact .inl ⟨rfl, by simpa [complete_ok hok] using h.symm⟩

/-- The body of each command (the `Exec` of 41 to 45). -/
def bodyOf (i : Instr) (s : State) : State :=
  match i with
  | .nop => s
  | .gmul => writeRes0 (mul s.mlo (operandA s) (operandB s)) s
  | .ginv =>
    if (inv s.mlo (operandA s)).2 then writeRes0 (inv s.mlo (operandA s)).1 s
    else setErr .noinv (writeRes0 (inv s.mlo (operandA s)).1 s)
  | .gdbl => writeRes0 (dbl s.mlo (operandA s)) s
  | .affine => writeRes0 (aff s.seed (operandA s) (operandB s)) s
  | .sbuild => installTable (operandA s) s
  | .ssearch => finishSearch (searchConst s.mlo s.seed) s
  | .slookup => writeRes0 (ctLookup s.t (operandA s)) s
  | .mbij => writeRes0Word (BitVec.ofNat 32 (metricBij s.t)) (writeBij s)
  | .mnl => writeRes0Word (BitVec.ofInt 32 (metricNl s.t)) (writeNl s)
  | .msac => writeRes0Word (BitVec.ofNat 32 (metricSac s.t)) (writeSac s)
  | .mdu => writeRes0Word (BitVec.ofNat 32 (metricDu s.t)) (writeDu s)
  | .mlb => writeRes0Word (BitVec.ofNat 32 (metricLb s.t)) (writeLb s)
  | .mdeg => writeRes0Word (BitVec.ofNat 32 (metricDeg s.t)) (writeDeg s)
  | .mfp => writeRes0Word (BitVec.ofNat 32 (metricFp s.t)) (writeFp s)
  | .mall => writeFp (writeDeg (writeLb (writeDu (writeSac (writeNl (writeBij s))))))
  | .ctl2 => writeRes0 (ctLookup (mul2 s.mlo) (operandA s)) s
  | .ctl3 => writeRes0 (ctLookup (mul3 s.mlo) (operandA s)) s
  | .mixct => writeRes0Word (mixcolCt s.mlo s.opa) s
  | .xtime4 => writeRes0Word (xtime4 s.mlo s.opa) s
  | .rotb => writeRes0Word (rotb s.opa) s
  | .mixbs => writeRes0Word (mixcolBs s.mlo s.opa) s
  | .mixchk => checkEqual (mixcolCt s.mlo s.opa) (mixcolBs s.mlo s.opa) s

/-- Every command is the completion of its body. -/
theorem exec_eq_complete (i : Instr) (s : State) : exec i s = complete i (bodyOf i) s := by
  cases i <;> rfl

/-- What no command's body writes: the command, its operands, the configuration, IE, LOCK, the sticky flags, and the model's
own schedule, statements and trace (40_command.md R72, R73). -/
theorem bodyOf_frame (i : Instr) (s : State) :
    (bodyOf i s).cmd = s.cmd ∧ (bodyOf i s).opa = s.opa ∧ (bodyOf i s).opb = s.opb ∧ (bodyOf i s).mlo = s.mlo ∧
      (bodyOf i s).seed = s.seed ∧ (bodyOf i s).ie = s.ie ∧ (bodyOf i s).lock = s.lock ∧
      (bodyOf i s).busyerr = s.busyerr ∧ (bodyOf i s).cfgerr = s.cfgerr ∧ (bodyOf i s).turns = s.turns ∧
      (bodyOf i s).host = s.host ∧ (bodyOf i s).trace = s.trace := by
  cases i <;> simp [bodyOf]
  case ginv => split <;> simp
  case ssearch => unfold finishSearch; split <;> simp
  case mixchk => unfold checkEqual; split <;> simp

/-- The body of a command of form B or BB, on operands that are bytes. -/
theorem operandA_setWidth {s : State} {a : Byte} (h : s.opa = a.setWidth 32) : operandA s = a := by
  simp only [operandA, h]
  ext k hk
  simp [hk]
  omega

theorem operandB_setWidth {s : State} {b : Byte} (h : s.opb = b.setWidth 32) : operandB s = b := by
  simp only [operandB, h]
  ext k hk
  simp [hk]
  omega

/-- A zero-extended byte passes the byte operand check (30_encoding.md R60). -/
theorem byteOperand_setWidth (a : Byte) : byteOperand (a.setWidth 32) = true := by
  simp only [byteOperand, beq_iff_eq]
  ext k hk
  simp

/-- A word of 256 or more fails it (30_encoding.md R60). -/
theorem byteOperand_of_le {w : Word} (h : 256 ≤ w.toNat) : byteOperand w = false := by
  simp only [byteOperand, beq_eq_false_iff_ne, ne_eq]
  intro he
  have := congrArg BitVec.toNat he
  simp [BitVec.extractLsb'_toNat, Nat.shiftRight_eq_div_pow] at this
  have hw := w.isLt
  omega

/-! ### The command write -/

/-- The three branches of a CMD write (40_command.md R69). -/
theorem cmdWrite_cases (w : Word) (s : State) :
    (s.halt = true ∧ cmdWrite w s = s) ∨
      (s.halt = false ∧ s.busy = true ∧ cmdWrite w s = setBusyerr s) ∨
      (s.halt = false ∧ s.busy = false ∧ cmdWrite w s = accept w s) := by
  cases hh : s.halt <;> cases hb : s.busy <;> simp [cmdWrite, hh, hb]

/-- The CTRL write: a reset, or IE with or without the acknowledge (70_reset_and_hazards.md R152). -/
theorem ctrlWrite_cases (w : Word) (s : State) :
    (w.getLsbD 0 = true ∧ ctrlWrite w s = resetBlock s) ∨
      (w.getLsbD 0 = false ∧ w.getLsbD 1 = true ∧ ctrlWrite w s = acknowledge (setIe (w.getLsbD 2) s)) ∨
      (w.getLsbD 0 = false ∧ w.getLsbD 1 = false ∧ ctrlWrite w s = setIe (w.getLsbD 2) s) := by
  unfold ctrlWrite
  cases w.getLsbD 0 <;> cases w.getLsbD 1 <;> simp only [Bool.false_eq_true, if_true, if_false, true_and, false_and,
    or_true, or_false, reduceCtorEq]

/-! ### The window -/

/-- What the store of a host's word into a register can be (10_state.md R15). -/
theorem storeReg_cases (r : Reg) (w : Word) (s : State) :
    storeReg r w s = s ∨ storeReg r w s = setOpa w s ∨ storeReg r w s = setOpb w s ∨
      (writeAccess r = .rwl ∧ storeReg r w s = setMlo (w.extractLsb' 0 8) s) ∨
      (writeAccess r = .rwl ∧ storeReg r w s = setSeed (w.extractLsb' 0 8) s) ∨
      ∃ k, storeReg r w s = storeSbox k w s := by
  cases r with
  | opa => exact .inr (.inl rfl)
  | opb => exact .inr (.inr (.inl rfl))
  | mod => exact .inr (.inr (.inr (.inl ⟨rfl, rfl⟩)))
  | seed => exact .inr (.inr (.inr (.inr (.inl ⟨rfl, rfl⟩))))
  | sbox k => exact .inr (.inr (.inr (.inr (.inr ⟨k, rfl⟩))))
  | _ => exact .inl rfl

/-- What a host's write can do (10_state.md R15; 60_exceptions.md R143, R144, R146). -/
theorem writeReg_cases (r : Reg) (w : Word) (s : State) :
    writeReg r w s = s ∨ (writeAccess r = .ctrl ∧ writeReg r w s = ctrlWrite w s) ∨ writeReg r w s = cmdWrite w s ∨
      (s.busy = true ∧ writeReg r w s = setBusyerr s) ∨
      (s.busy = false ∧ s.lock = true ∧ writeReg r w s = setCfgerr s) ∨
      (s.busy = false ∧ writeAccess r = .rwb ∧ writeReg r w s = storeReg r w s) ∨
      (s.busy = false ∧ s.lock = false ∧ writeReg r w s = storeReg r w s) := by
  unfold writeReg
  cases hb : s.busy <;> cases hl : s.lock <;> cases writeAccess r <;> simp

/-- A read answers a value and changes nothing, or the count of draws when an ROU register is read while BUSY = 1
(20_memory.md R48). -/
theorem readReg_state (r : Reg) (s : State) :
    (readReg r s).2 = s ∨ (s.busy = true ∧ readsRou r = true ∧ (readReg r s).2 = countDraw s) := by
  unfold readReg
  split
  · rename_i h
    simp only [Bool.and_eq_true] at h
    exact .inr ⟨h.2, h.1, rfl⟩
  · exact .inl rfl

/-- With BUSY = 0 a read answers the register's value and changes nothing (10_state.md R15). -/
theorem readReg_idle {r : Reg} {s : State} (h : s.busy = false) : readReg r s = (regValue r s, s) := by
  simp [readReg, h]

/-- A register that is not ROU reads its value at any time (10_state.md R15). -/
theorem readReg_not_rou {r : Reg} {s : State} (h : readsRou r = false) : readReg r s = (regValue r s, s) := by
  simp [readReg, h]

/-- A served offset and size, in numbers (20_memory.md R45). -/
theorem served_iff (off : Offset) (n : Nat) : served off n = true ↔ n = 4 ∧ off.toNat % 4 = 0 := by
  simp only [served, Bool.and_eq_true, beq_iff_eq]
  refine and_congr_right fun _ => ?_
  rw [← BitVec.toNat_inj]
  simp [BitVec.extractLsb'_toNat]

/-- The only served offset whose writes go to CTRL is 0x004 (20_memory.md R43). -/
theorem regAt_ctrl {off : Offset} {n : Nat} (hs : served off n = true) (h : writeAccess (regAt off) = .ctrl) :
    off = 0x004 := by
  obtain ⟨-, h4⟩ := (served_iff off n).mp hs
  have hr : regAt off = .ctrl := by
    generalize regAt off = r at h
    cases r <;> first | rfl | cases h
  have hq : off.toNat / 4 * 4 = 0x004 := by
    unfold regAt at hr
    split at hr <;> first | assumption | cases hr | skip
    split at hr <;> cases hr
  apply BitVec.eq_of_toNat_eq
  change off.toNat = 4
  omega

/-- A served read (20_memory.md R45). -/
theorem memRead_served {off : Offset} {n : Nat} {s : State} (h : served off n = true) :
    memRead off n s = (((readReg (regAt off) s).1, .okay), (readReg (regAt off) s).2) := by simp [memRead, h]

/-- An unserved read (20_memory.md R46). -/
theorem memRead_unserved {off : Offset} {n : Nat} {s : State} (h : served off n = false) :
    memRead off n s = ((0, .error), s) := by simp [memRead, h]

/-- A served write (20_memory.md R45). -/
theorem memWrite_served {off : Offset} {n : Nat} {w : Word} {s : State} (h : served off n = true) :
    memWrite off n w s = (.okay, writeReg (regAt off) w s) := by simp [memWrite, h]

/-- An unserved write (20_memory.md R46). -/
theorem memWrite_unserved {off : Offset} {n : Nat} {w : Word} {s : State} (h : served off n = false) :
    memWrite off n w s = (.error, s) := by simp [memWrite, h]

/-! ### Turns -/

/-- A host's read, when it is served, is the register's read with the host's side updated. -/
theorem hostRead_cases {off : Offset} {n : Nat} {rest : List HostStmt} {s t : State}
    (h : hostRead off n rest s = .next t) :
    served off n = true ∧
      t = setHost rest (record (.readBack off (readReg (regAt off) s).1) (readReg (regAt off) s).2) := by
  cases hs : served off n
  · simp [hostRead, memRead_unserved hs] at h
  · exact ⟨rfl, by simpa [hostRead, memRead_served hs] using h.symm⟩

/-- A host's write, when it is served, is the register's write with the host's side updated. -/
theorem hostWrite_cases {off : Offset} {n : Nat} {w : Word} {rest : List HostStmt} {s t : State}
    (h : hostWrite off n w rest s = .next t) :
    served off n = true ∧ t = setHost rest (record (.wrote off w) (writeReg (regAt off) w s)) := by
  cases hs : served off n
  · simp [hostWrite, memWrite_unserved hs] at h
  · exact ⟨rfl, by simpa [hostWrite, memWrite_served hs] using h.symm⟩

/-- Everything a host's turn can do: nothing, the end of a wait, a read, or a write of one register. -/
theorem hostTurn_cases {s t : State} (h : hostTurn s = .next t) :
    t = s ∨ (∃ hs, t = setHost hs s) ∨ (∃ hs rec, t = setHost hs (record rec s)) ∨
      (∃ hs rec, s.busy = true ∧ t = setHost hs (record rec (countDraw s))) ∨
      ∃ off n w rest, s.host = .write off n w :: rest ∧ served off n = true ∧
        t = setHost rest (record (.wrote off w) (writeReg (regAt off) w s)) := by
  have hread : ∀ {off n rest}, hostRead off n rest s = .next t →
      (∃ hs rec, t = setHost hs (record rec s)) ∨
        ∃ hs rec, s.busy = true ∧ t = setHost hs (record rec (countDraw s)) := by
    intro off n rest h
    obtain ⟨-, rfl⟩ := hostRead_cases h
    rcases readReg_state (regAt off) s with h | ⟨hb, -, h⟩
    · exact .inl ⟨rest, _, by rw [h]⟩
    · exact .inr ⟨rest, _, hb, by rw [h]⟩
  unfold hostTurn at h
  split at h
  · exact .inl (by simpa using h.symm)
  · rcases hread h with h | h
    · exact .inr (.inr (.inl h))
    · exact .inr (.inr (.inr (.inl h)))
  · rename_i off n w rest hh
    obtain ⟨hs, rfl⟩ := hostWrite_cases h
    exact .inr (.inr (.inr (.inr ⟨off, n, w, rest, hh, hs, rfl⟩)))
  · rcases hread h with h | h
    · exact .inr (.inr (.inl h))
    · exact .inr (.inr (.inr (.inl h)))
  · rename_i rest _
    simp only [Host.Outcome.next.injEq] at h
    cases hi : irq s
    · exact .inl (by simpa [hi] using h.symm)
    · exact .inr (.inl ⟨rest, by simpa [hi] using h.symm⟩)

/-- Everything an engine's turn can do: nothing when no command is pending, else the completion of an illegal word or of the
decoded command. -/
theorem engineTurn_cases {s t : State} (h : engineTurn s = .next t) :
    (s.busy = false ∧ t = s) ∨
      (s.busy = true ∧ t = finish (setErr .illegal s)) ∨
      ∃ i, s.busy = true ∧ decode s.cmd = .ok i ∧ exec i s = .next t := by
  unfold engineTurn completePending at h
  cases hb : s.busy
  · exact .inl ⟨rfl, by simpa [hb] using h.symm⟩
  · simp only [hb, if_true] at h
    split at h
    · exact .inr (.inr ⟨_, rfl, by assumption, h⟩)
    · exact .inr (.inl ⟨rfl, by simpa [completeIllegal] using h.symm⟩)

/-- Everything a step can do: one agent moves, with the schedule `us` left. -/
theorem step_cases {s t : State} (h : step s = .next t) :
    ∃ us, engineTurn (setTurns us s) = .next t ∨ hostTurn (setTurns us s) = .next t ∨
      t = resetBlock (setTurns us s) := by
  unfold step nextTurn at h
  cases hu : s.turns with
  | nil =>
    have hs : setTurns [] s = s := by cases s; simp_all [setTurns]
    refine ⟨[], ?_⟩
    rw [hs]
    cases hb : s.busy <;> simp [hu, hb, takeTurn] at h
    · exact .inr (.inl h)
    · exact .inl h
  | cons u us =>
    refine ⟨us, ?_⟩
    cases u <;> simp [hu, takeTurn] at h
    · exact .inl h
    · exact .inr (.inl h)
    · exact .inr (.inr h.symm)

end Sys2Proof.Machine
end

