-- ==== Sys2Proof/Laws/PerInstr.lean ====
section
/-! SUPPORT. The per-command family `OpcodeWord`: each command's word is its OPC zero-extended, and its OPC is in the
opcode map (30_encoding.md R59, R61). -/

namespace Sys2Proof.Laws.OpcodeWord

/-- The command's word has RSV = 0 and a defined OPC (30_encoding.md R58, R59, R61). -/
def Statement (i : Instr) : Prop := CommandWord.legal (encode i) = true ∧ (encode i).toNat = (opcode i).toNat

theorem nop : Statement .nop := by unfold Statement; decide

theorem gmul : Statement .gmul := by unfold Statement; decide

theorem ginv : Statement .ginv := by unfold Statement; decide

theorem gdbl : Statement .gdbl := by unfold Statement; decide

theorem affine : Statement .affine := by unfold Statement; decide

theorem sbuild : Statement .sbuild := by unfold Statement; decide

theorem ssearch : Statement .ssearch := by unfold Statement; decide

theorem slookup : Statement .slookup := by unfold Statement; decide

theorem mbij : Statement .mbij := by unfold Statement; decide

theorem mnl : Statement .mnl := by unfold Statement; decide

theorem msac : Statement .msac := by unfold Statement; decide

theorem mdu : Statement .mdu := by unfold Statement; decide

theorem mlb : Statement .mlb := by unfold Statement; decide

theorem mdeg : Statement .mdeg := by unfold Statement; decide

theorem mfp : Statement .mfp := by unfold Statement; decide

theorem mall : Statement .mall := by unfold Statement; decide

theorem ctl2 : Statement .ctl2 := by unfold Statement; decide

theorem ctl3 : Statement .ctl3 := by unfold Statement; decide

theorem mixct : Statement .mixct := by unfold Statement; decide

theorem xtime4 : Statement .xtime4 := by unfold Statement; decide

theorem rotb : Statement .rotb := by unfold Statement; decide

theorem mixbs : Statement .mixbs := by unfold Statement; decide

theorem mixchk : Statement .mixchk := by unfold Statement; decide

end Sys2Proof.Laws.OpcodeWord
end

