-- ==== Sys2Proof/Tests/Slice0.lean ====
section
/-! SUPPORT. The model's own tests, each on one step of a small state with its expected value from the spec's tables
(95_test_vectors.md, or the rule cited), and for each statement with hypotheses a witness that meets all of them. -/

open Sys2Proof Sys2Proof.Machine

namespace Sys2Proof.Tests

-- One theorem at a time: each waiting kernel check would hold a thread and its stack.
set_option Elab.async false

/-! ### Helpers -/

/-- T[x] = x. -/
def idTable : Table := Indexed.tabulate fun x => x

/-- A state with the word `w` accepted and pending, on operands a and b, otherwise after reset, with T[x] = x. -/
def pendingWord (w a b : Word) : State :=
  { State.reset with cmd := w, lock := true, busy := true, opa := a, opb := b, t := idTable }

/-- The same for a command. -/
def pending (i : Instr) (a b : Word) : State := pendingWord (encode i) a b

/-- The next state's view, if there is a next state. -/
def view {α : Type} (f : State → α) : Host.Outcome State Fault Refusal → Option α
  | .next t => some (f t)
  | _ => none

/-- RES0 and STATUS. -/
def resultAndStatus (s : State) : Word × Word := (s.res0, statusWord s)

/-- Whether the outcome is this fault. -/
def faultsWith (f : Fault) : Host.Outcome State Fault Refusal → Bool
  | .fault g => g == f
  | _ => false

/-! ### Words from the opcode map (30_encoding.md R61), bit by bit: RSV in 31:8, OPC in 7:0 -/

theorem test_decode_words :
    decode 0b00000000000000000000000000000000 = .ok .nop ∧ decode 0b00000000000000000000000000000001 = .ok .gmul ∧
    decode 0b00000000000000000000000000000010 = .ok .ginv ∧ decode 0b00000000000000000000000000000011 = .ok .gdbl ∧
    decode 0b00000000000000000000000000001000 = .ok .affine ∧ decode 0b00000000000000000000000000010000 = .ok .sbuild ∧
    decode 0b00000000000000000000000000010001 = .ok .ssearch ∧ decode 0b00000000000000000000000000010010 = .ok .slookup ∧
    decode 0b00000000000000000000000000100000 = .ok .mbij ∧ decode 0b00000000000000000000000000100001 = .ok .mnl ∧
    decode 0b00000000000000000000000000100010 = .ok .msac ∧ decode 0b00000000000000000000000000100011 = .ok .mdu ∧
    decode 0b00000000000000000000000000100100 = .ok .mlb ∧ decode 0b00000000000000000000000000100101 = .ok .mdeg ∧
    decode 0b00000000000000000000000000100110 = .ok .mfp ∧ decode 0b00000000000000000000000000100111 = .ok .mall ∧
    decode 0b00000000000000000000000000110000 = .ok .ctl2 ∧ decode 0b00000000000000000000000000110001 = .ok .ctl3 ∧
    decode 0b00000000000000000000000000110010 = .ok .mixct ∧ decode 0b00000000000000000000000000110011 = .ok .xtime4 ∧
    decode 0b00000000000000000000000000110100 = .ok .rotb ∧ decode 0b00000000000000000000000000110101 = .ok .mixbs ∧
    decode 0b00000000000000000000000000110110 = .ok .mixchk := by
  refine ⟨rfl, rfl, rfl, rfl, rfl, rfl, rfl, rfl, rfl, rfl, rfl, rfl, rfl, rfl, rfl, rfl, rfl, rfl, rfl, rfl, rfl, rfl, rfl⟩

/-- The edges of the illegal ranges (30_encoding.md R62). -/
theorem test_decode_rejects :
    decode 0x04 = .error .undefinedOpcode ∧ decode 0x07 = .error .undefinedOpcode ∧
    decode 0x09 = .error .undefinedOpcode ∧ decode 0x0F = .error .undefinedOpcode ∧
    decode 0x13 = .error .undefinedOpcode ∧ decode 0x1F = .error .undefinedOpcode ∧
    decode 0x28 = .error .undefinedOpcode ∧ decode 0x2F = .error .undefinedOpcode ∧
    decode 0x37 = .error .undefinedOpcode ∧ decode 0xFF = .error .undefinedOpcode ∧
    decode 0x100 = .error .reservedBits ∧ decode 0x80000001 = .error .reservedBits := by
  refine ⟨rfl, rfl, rfl, rfl, rfl, rfl, rfl, rfl, rfl, rfl, rfl, rfl⟩

theorem test_decodeTableWord : decodeTableWord 32 0x36 = some .mixchk ∧ decodeTableWord 8 0x136 = some .mixchk ∧
    decodeTableWord 32 0x136 = none ∧ decodeTableWord 64 0x36 = none := by decide

/-! ### WellFormed smoke: one ill-formed term per check -/

theorem test_legal_refuses_rsv : CommandWord.legal 0x00000101 = false ∧ CommandWord.legal 0x80000000 = false := by decide

theorem test_legal_refuses_opcode : CommandWord.legal 0x04 = false ∧ CommandWord.legal 0x37 = false := by decide

theorem test_legal_accepts : CommandWord.legal 0x36 = true ∧ Instr.wf .mixchk = true := by decide

theorem test_transaction_refuses_size : Transaction.wf 0x010 2 = false ∧ Transaction.wf 0x010 8 = false := by decide

theorem test_transaction_refuses_offset : Transaction.wf 0x011 4 = false ∧ Transaction.wf 0xFFE 4 = false := by decide

theorem test_hostStmt_refuses :
    HostStmt.wf (.read 0x012 4) = false ∧ HostStmt.wf (.write 0x010 1 0) = false ∧ HostStmt.wf .poll = true := by decide

/-! ### One step of a command -/

/-- R77, R40: from reset, `nop` leaves STATUS = 0x00000006. -/
theorem test_nop : view resultAndStatus (step (State.reset.withFetchWord 32 0)) = some (0, 0x6) := by decide +kernel

/-- An illegal word completes with ERR = 1 (R62, R138). -/
theorem test_illegal_word : view resultAndStatus (step (pendingWord 0x37 0 0)) = some (0, 0x106) := by decide +kernel

/-- A byte operand of 0x100 completes with ERR = 2 (R60, R139). -/
theorem test_operand : view resultAndStatus (step (pending .gmul 0x57 0x100)) = some (0, 0x206) := by decide +kernel

/-- V-F1. -/
theorem test_gmul : view resultAndStatus (step (pending .gmul 0x57 0x83)) = some (0xC1, 0x6) := by decide +kernel

/-- V-F3. -/
theorem test_gmul_reducible : view resultAndStatus (step { pending .gmul 0x80 0x80 with mlo := 0 }) = some (0, 0x6) := by
  decide +kernel

/-- V-F4. -/
theorem test_ginv : view resultAndStatus (step (pending .ginv 0xFF 0)) = some (0x1C, 0x6) := by decide +kernel

/-- V-F6. -/
theorem test_ginv_noinv : view resultAndStatus (step { pending .ginv 0x02 0 with mlo := 0 }) = some (0, 0x406) := by
  decide +kernel

/-- V-F8. -/
theorem test_gdbl : view resultAndStatus (step (pending .gdbl 0x57 0)) = some (0xAE, 0x6) := by decide +kernel

/-- W1: aff(0xCA, 0x63) = 0xED = S(0x53). -/
theorem test_affine : view resultAndStatus (step (pending .affine 0xCA 0x63)) = some (0xED, 0x6) := by decide +kernel

/-- W1: T[0x53] = 0xED after `sbuild 0x63`, and SCONST = 0x163 (R33, R97). -/
theorem test_sbuild :
    view (fun t => (Indexed.at t.t 0x53, regValue .sconst t)) (step (pending .sbuild 0x63 0)) = some (0xED, 0x163) := by
  decide +kernel

/-- The two endings of SSEARCH (R98): NONE gives ERR = 3 and SVALID = 0 with RES0 and CONST unchanged; a constant is reported in
RES0 and SCONST. -/
theorem test_ssearch_endings :
    view (fun t => (resultAndStatus t, regValue .sconst t))
      (.next (finish (finishSearch none { pending .ssearch 0 0 with sconst := 7, svalid := true }))) =
        some ((0, 0x306), 0x7) ∧
    view (fun t => (resultAndStatus t, regValue .sconst t)) (.next (finish (finishSearch (some 5) (pending .ssearch 0 0)))) =
      some ((5, 0x6), 0x105) := by decide +kernel

/-- R99: SLOOKUP reads T whatever SVALID is. -/
theorem test_slookup : view resultAndStatus (step (pending .slookup 0xFE 0)) = some (0xFE, 0x6) := by decide +kernel

/-- R123: CTL2 of 0x80 is MLO. -/
theorem test_ctl2 : view resultAndStatus (step (pending .ctl2 0x80 0)) = some (0x1B, 0x6) := by decide +kernel

/-- W2. -/
theorem test_mixbs : view resultAndStatus (step (pending .mixbs 0x455313DB 0)) = some (0xBCA14D8E, 0x6) := by
  decide +kernel

/-- Lane by lane: dbl(0x80) = 0x1B, dbl(3) = 6, dbl(2) = 4, dbl(1) = 2 (R128). -/
theorem test_xtime4 : view resultAndStatus (step (pending .xtime4 0x01020380 0)) = some (0x0204061B, 0x6) := by
  decide +kernel

/-- Lane 0 goes to lane 3 (R130). -/
theorem test_rotb : view resultAndStatus (step (pending .rotb 0x44332211 0)) = some (0x11443322, 0x6) := by decide +kernel

/-- FP of T[x] = x is 256, in MET_FP and RES0 (R117, R118). -/
theorem test_mfp : view (fun t => (t.res0, t.metFp)) (step (pending .mfp 0 0)) = some (256, 256) := by decide +kernel

/-! ### The window, the flags, reset -/

/-- R50: word 0 of T[x] = x. -/
theorem test_sbox_read : (memRead 0x100 4 { State.reset with t := idTable }).1 = (0x03020100, .okay) := by decide +kernel

/-- R50: word 63 is at 0x1FC; lane 3 is the highest byte. -/
theorem test_sbox_write :
    (memWrite 0x1FC 4 0x44332211 { State.reset with t := idTable }).2.t[255] = 0x44 ∧
    (memWrite 0x1FC 4 0x44332211 { State.reset with t := idTable }).2.t[251] = 251 := by decide +kernel

/-- R27. -/
theorem test_amat : regValue .amat0 State.reset = 0x8FC7E3F1 ∧ regValue .amat1 State.reset = 0xF87C3E1F := by decide +kernel

/-- R19: the places of the STATUS bits. -/
theorem test_status_bits :
    statusWord { State.reset with busyerr := true, err := 5, halt := true } = 0x518 ∧
    statusWord { State.reset with cfgerr := true, lock := true, done := true } = 0x26 := by decide +kernel

/-- R146: while BUSY = 1 a MOD write sets BUSYERR, not CFGERR. -/
theorem test_busyerr_first : statusWord (memWrite 0x020 4 0x2B (pending .nop 0 0)).2 = 0x15 := by decide +kernel

/-- R148: the acknowledge keeps ERR while HALT = 1. -/
theorem test_ack_halted :
    (memWrite 0x004 4 0x2 { State.reset with lock := true, halt := true, err := 5, done := true }).2.err = 5 := by decide +kernel

/-- R152: SRST hides the IE bit. -/
theorem test_srst_hides_ie : (memWrite 0x004 4 0x5 (pending .nop 0 0)).2.ie = false := by decide +kernel

/-- R46: a halfword read faults the host's program. -/
theorem test_bus_error :
    faultsWith (.busError 0x010) (step { State.reset with host := [.read 0x010 2] }) = true := by decide +kernel

/-- R65: a `poll` stays while BUSY = 1. -/
theorem test_poll_stays :
    view (fun t => t.host) (step { pending .nop 0 0 with turns := [.host], host := [.poll] }) = some [.poll] := by decide +kernel

/-- R79: a `wait_irq` left over makes no transaction, so the run has ended; a `poll` left over has not been issued. -/
theorem test_finished :
    { State.reset with host := [.waitIrq] }.finished = true ∧ { State.reset with host := [.waitIrq, .poll] }.finished = false ∧
    { State.reset with host := [.waitIrq], busy := true }.finished = false := by decide +kernel

/-! ### Witnesses: for each statement with hypotheses, a state and operands that meet all of them -/

/-- A state in which nothing is pending, with LOCK = 1. -/
def locked : State := { State.reset with lock := true }

/-- A halted state. -/
def halted : State := { State.reset with lock := true, done := true, halt := true, err := 5 }

/-- A pending NOP with the host's turn next. -/
def hostFirst (h : HostStmt) : State := { pending .nop 0 0 with turns := [.host], host := [h] }

/-- The host's soft reset. -/
def srst : List HostStmt := [.write 0x004 4 0x1]

theorem witness_DecodeInvertsEncode : ∃ (w : Word) (i : Instr), decode w = .ok i ∧ w = encode i := ⟨0x36, .mixchk, rfl, rfl⟩

theorem witness_IllegalPendingWordReportsIllegal :
    (pendingWord 0x37 0 0).busy = true ∧ CommandWord.legal (pendingWord 0x37 0 0).cmd = false ∧
    CommandWord.legal (pendingWord 0x100 0 0).cmd = false ∧ CommandWord.legal (pendingWord 0xFFFFFFFF 0 0).cmd = false := by
  decide +kernel

theorem witness_ReservedEncodingsAreAcceptedThenIllegal :
    decode 0x04 = .error .undefinedOpcode ∧ decode 0x100 = .error .reservedBits ∧
    State.reset.busy = false ∧ State.reset.halt = false := ⟨rfl, rfl, rfl, rfl⟩

theorem witness_EngineStepRunsTheDecodedCommand :
    ((pending .gmul 2 3).busy = true ∧ decode (pending .gmul 2 3).cmd = .ok .gmul ∧ (pending .gmul 2 3).turns = []) ∧
    { pending .gmul 2 3 with turns := [.engine, .rst] }.turns = .engine :: [.rst] ∧
    (pendingWord 0x37 0 0).busy = true ∧ decode (pendingWord 0x37 0 0).cmd = .error .undefinedOpcode :=
  ⟨⟨rfl, rfl, rfl⟩, rfl, rfl, rfl⟩

theorem witness_StepsWithoutCompletion :
    (State.reset.busy = false ∧ { State.reset with turns := [.engine] }.turns = .engine :: []) ∧ State.reset.turns = [] ∧
    (hostFirst .poll).turns = .host :: [] ∧
    ({ locked with turns := [.host] }.host = [] ∧ { locked with turns := [.host] }.turns = .host :: []) ∧
    ({ locked with host := [.waitIrq] }.finished = true ∧ (nextTurn { locked with host := [.waitIrq] }).1 ≠ .rst) :=
  ⟨⟨rfl, rfl⟩, rfl, rfl, ⟨rfl, rfl⟩, rfl, by decide +kernel⟩

theorem witness_CommandWriteAcceptance :
    halted.halt = true ∧ ((pending .nop 0 0).halt = false ∧ (pending .nop 0 0).busy = true) ∧
    (locked.halt = false ∧ locked.busy = false) := ⟨rfl, ⟨rfl, rfl⟩, rfl, rfl⟩

theorem witness_OversizedByteOperandReportsOperand :
    256 ≤ (pending .gmul 0x100 0).opa.toNat ∧ 256 ≤ (pending .affine 0 0xFFFFFFFF).opb.toNat := by decide +kernel

theorem witness_PendingCommandEnds :
    { pending .mnl 0 0 with turns := [.host, .host], host := [.poll, .read 0x018 4] }.busy = true ∧
    ∀ h ∈ [HostStmt.poll, .read 0x018 4], HostStmt.wf h = true := by decide +kernel

theorem witness_PendingCommandIsUndisturbed :
    ∃ s s' : State, s.busy = true ∧ step s = .next s' ∧ s'.busy = true :=
  ⟨hostFirst (.write 0x020 4 0x2B), _, rfl, rfl, rfl⟩

theorem witness_NopOnlyCompletes : State.reset.busy = false ∧ State.reset.halt = false := ⟨rfl, rfl⟩

theorem witness_GmulWritesProduct :
    (pending .gmul 0xFF 0x00).opa = (0xFF : Byte).setWidth 32 ∧ (pending .gmul 0xFF 0x00).opb = (0x00 : Byte).setWidth 32 := by
  decide +kernel

theorem witness_GinvWritesInverse :
    ((pending .ginv 0x53 0).opa = (0x53 : Byte).setWidth 32 ∧ mul (pending .ginv 0x53 0).mlo 0x53 0xCA = 1) ∧
    (pending .ginv 0 0).opa = 0 ∧
    ({ pending .ginv 2 0 with mlo := 0 }.opa = (2 : Byte).setWidth 32 ∧ ∀ b, mul 0x00 2 b ≠ 1) ∧
    (pending .ginv 1 0).opa = 1 ∧ ({ pending .ginv 3 0 with mlo := 0 }.mlo = 0 ∧ (pending .ginv 3 0).opa = 3) ∧
    (pending .ginv 0x53 0).mlo = 0x1B := by decide +kernel

theorem witness_GdblWritesDouble :
    (pending .gdbl 0x7F 0).opa = (0x7F : Byte).setWidth 32 ∧ (pending .gdbl 0x80 0).opa = (0x80 : Byte).setWidth 32 := by
  decide +kernel

theorem witness_InverseLaws :
    ((1 : Byte) ≠ 0 ∧ inv 0x1B 1 = (1, true)) ∧ (0xFF : Byte) ≠ 0 ∧ mul 0x1B 0xFF 0x1C = 1 := by decide +kernel

/-- A bit of one conditional XOR. -/
theorem getLsbD_ite_xor {n : Nat} (c : Bool) (p q : BitVec n) (k : Nat) :
    (if c then p ^^^ q else p).getLsbD k = (p.getLsbD k ^^ (c && q.getLsbD k)) := by
  cases c <;> simp

/-- Whether `p` holds of every pair of bits. -/
def allPairs (p : Bool → Bool → Bool) : Bool := p false false && p false true && p true false && p true true

/-- The step that picks the two bits at hand. -/
theorem allPairs_spec {p : Bool → Bool → Bool} (h : allPairs p = true) {c : Bool → Bool → Bool} {x y : Bool}
    {r : Bool → Bool → Bool} (hp : p = fun x y => !(c x y) || r x y) (hc : c x y = true) : r x y = true := by
  subst hp
  cases x <;> cases y <;> simp_all [allPairs]

/-- The bits of x^8 + x^4 + x^3 + x + 1 written as the bits of a product of two bytes above 1: no choice of the factors' bits,
lowest first, survives. -/
theorem noFactors : (allPairs fun f0 g0 => !(f0 && g0) ||
    allPairs fun f1 g1 => !((g0 && f1) != (g1 && f0)) ||
    allPairs fun f2 g2 => !((g0 && f2) == ((g1 && f1) != (g2 && f0))) ||
    allPairs fun f3 g3 => !((g0 && f3) != ((g1 && f2) != ((g2 && f1) != (g3 && f0)))) ||
    allPairs fun f4 g4 => !((g0 && f4) != ((g1 && f3) != ((g2 && f2) != ((g3 && f1) != (g4 && f0))))) ||
    allPairs fun f5 g5 => !((g0 && f5) == ((g1 && f4) != ((g2 && f3) != ((g3 && f2) != ((g4 && f1) != (g5 && f0)))))) ||
    allPairs fun f6 g6 => !((g0 && f6) == ((g1 && f5) != ((g2 && f4) != ((g3 && f3) != ((g4 && f2) != ((g5 && f1) != (g6 && f0))))))) ||
    allPairs fun f7 g7 => !(((g0 && f7) == ((g1 && f6) != ((g2 && f5) != ((g3 && f4) != ((g4 && f3) != ((g5 && f2) != ((g6 && f1) != (g7 && f0)))))))) &&
      ((g1 && f7) != ((g2 && f6) != ((g3 && f5) != ((g4 && f4) != ((g5 && f3) != ((g6 && f2) != (g7 && f1))))))) &&
      ((g2 && f7) == ((g3 && f6) != ((g4 && f5) != ((g5 && f4) != ((g6 && f3) != (g7 && f2)))))) &&
      ((g3 && f7) == ((g4 && f6) != ((g5 && f5) != ((g6 && f4) != (g7 && f3))))) &&
      ((g4 && f7) == ((g5 && f6) != ((g6 && f5) != (g7 && f4)))) && ((g5 && f7) == ((g6 && f6) != (g7 && f5))) &&
      ((g6 && f7) == (g7 && f6)) && !(g7 && f7) &&
      (f1 || f2 || f3 || f4 || f5 || f6 || f7) && (g1 || g2 || g3 || g4 || g5 || g6 || g7)) || false) = true := by
  decide +kernel

theorem one_lt_bits (f : Byte) (h : 1 < f.toNat) : (f[1] || f[2] || f[3] || f[4] || f[5] || f[6] || f[7]) = true := by
  revert f; decide +kernel

/-- The reset modulus 0x11B is irreducible (41_field.md R80). -/
theorem witness_irreducible : IrreducibleModulus 0x1B := by
  intro f g hf hg h
  have hb := fun k => congrArg (fun w => w.getLsbD k) h
  simp only [clmul, bitPositions, List.foldl_cons, List.foldl_nil, getLsbD_ite_xor, BitVec.getLsbD_shiftLeft,
    BitVec.getLsbD_setWidth] at hb
  refine absurd (allPairs_spec (allPairs_spec (allPairs_spec (allPairs_spec (allPairs_spec (allPairs_spec (allPairs_spec
    (allPairs_spec (x := f[0]) (y := g[0]) noFactors rfl ?_) (x := f[1]) (y := g[1]) rfl ?_) (x := f[2]) (y := g[2]) rfl ?_)
    (x := f[3]) (y := g[3]) rfl ?_) (x := f[4]) (y := g[4]) rfl ?_) (x := f[5]) (y := g[5]) rfl ?_)
    (x := f[6]) (y := g[6]) rfl ?_) (x := f[7]) (y := g[7]) rfl ?_) (by decide)
  · have := hb 0; simp [modulus16] at this ⊢; grind
  · have := hb 1; simp [modulus16] at this ⊢; exact this
  · have := hb 2; simp [modulus16] at this ⊢; exact this
  · have := hb 3; simp [modulus16] at this ⊢; exact this
  · have := hb 4; simp [modulus16] at this ⊢; exact this
  · have := hb 5; simp [modulus16] at this ⊢; exact this
  · have := hb 6; simp [modulus16] at this ⊢; exact this
  · have h1 := hb 7
    have h2 := hb 8
    have h3 := hb 9
    have h4 := hb 10
    have h5 := hb 11
    have h6 := hb 12
    have h7 := hb 13
    have h8 := hb 14
    simp only [one_lt_bits f hf, one_lt_bits g hg, Bool.and_true]
    simp [modulus16] at h1 h2 h3 h4 h5 h6 h7 h8 ⊢
    have h8 : g[7] = false ∨ f[7] = false := by cases hg7 : g[7] <;> simp_all
    simp_all

theorem witness_IrreducibleModulusGivesAField : IrreducibleModulus 0x1B ∧ (0xFF : Byte) ≠ 0 := ⟨witness_irreducible, by decide +kernel⟩

theorem witness_AffineWritesTransform :
    (pending .affine 0xCA 0x63).opa = (0xCA : Byte).setWidth 32 ∧ (pending .affine 0xCA 0x63).opb = (0x63 : Byte).setWidth 32 := by
  decide +kernel

theorem witness_AffineBitsFollowTheCirculantMatrix : (0 < 8 ∧ 7 < 8) ∧ (7 < 8 ∧ 0 < 8) := by decide +kernel

theorem witness_AffineIsBijectiveExactlyForOddSeeds : popcount 0xF1 % 2 = 1 ∧ popcount 0xF0 % 2 = 0 := by decide +kernel

theorem witness_SbuildBuildsTheTable :
    (pending .sbuild 0xFF 0).opa = (0xFF : Byte).setWidth 32 ∧ ∀ b, mul 0x00 0x80 b ≠ 1 := by decide +kernel

theorem witness_SearchFailsExactlyWithoutAValidConstant :
    (IrreducibleModulus 0x1B ∧ popcount 0xF1 % 2 = 1) ∧ ¬ IrreducibleModulus 0x00 ∧ popcount 0x00 % 2 = 0 :=
  ⟨⟨witness_irreducible, by decide +kernel⟩, fun h => h 0x02 0x80 (by decide +kernel) (by decide +kernel) (by decide +kernel), by decide +kernel⟩

theorem witness_LookupCommandsWriteTheEntry :
    (pending .slookup 0x00 0).opa = (0x00 : Byte).setWidth 32 ∧ (pending .ctl3 0xFF 0).opa = (0xFF : Byte).setWidth 32 := by
  decide +kernel

theorem witness_ButterflyComputesTheWalshSums : (0xFF : Byte) ≠ 0 := by decide +kernel

theorem witness_MetricsFollowTheirFormulas :
    (∀ x, Indexed.at (Indexed.tabulate fun _ => (0x63 : Byte)) x = 0x63) ∧ (∀ x, Indexed.at idTable x = x) ∧
    ((0xFF : Byte) ≠ 0 ∧ 7 < 8) ∧ HasMonomial idTable 7 0x80 := by
  have hid : ∀ x, Indexed.at idTable x = x := fun x => by simp [idTable]
  refine ⟨fun x => by simp, hid, by decide, ?_⟩
  simp only [HasMonomial, hid]
  decide +kernel

theorem witness_PackedDoublingAndRotationByLanes : 0 < 4 ∧ 3 < 4 := by decide +kernel

theorem witness_MixctIsTheMatrixProduct : 0 < 4 ∧ 3 < 4 := by decide +kernel

theorem witness_WritesWhileBusySetBusyerr :
    (pending .nop 0 0).busy = true ∧ (pending .nop 0 0).halt = false ∧ (0x024 : Offset) ∈ [(0x010 : Offset), 0x014, 0x020, 0x024] ∧
    0 < 64 ∧ 63 < 64 := by decide +kernel

theorem witness_LockedConfigurationWritesSetCfgerr : locked.busy = false ∧ locked.lock = true := ⟨rfl, rfl⟩

theorem witness_AckClearsFlags :
    ((0x6 : Word).getLsbD 0 = false ∧ (0x6 : Word).getLsbD 1 = true) ∧
    ((pending .nop 0 0).FlagsConsistent ∧ (pending .nop 0 0).busy = true) ∧ (locked.busy = false ∧ locked.halt = false) ∧
    ((0x00C : Offset) ≠ 0x004 ∧ { locked with busyerr := true }.busyerr = true ∧ { locked with cfgerr := true }.cfgerr = true) ∧
    ∃ t, engineTurn (pending .nop 0 0) = .next t := by
  refine ⟨by decide +kernel, by decide +kernel, by decide +kernel, by decide +kernel, _, rfl⟩

theorem witness_InterruptFollowsDoneAndEnable :
    ((pending .nop 0 0).busy = true ∧ ∃ t, engineTurn (pending .nop 0 0) = .next t) ∧
    ((hostFirst .poll).done = false ∧ ∃ t, hostTurn (hostFirst .poll) = .next t) ∧
    (locked.busy = false ∧ ∃ t, engineTurn locked = .next t) ∧
    ((0x4 : Word).getLsbD 0 = false ∧ (0x4 : Word).getLsbD 1 = false) ∧
    ((0x1 : Word).getLsbD 0 = true ∧ (0x2 : Word).getLsbD 1 = true ∧ (0x0 : Word).getLsbD 2 = false) ∧
    (locked.busy = false ∧ locked.halt = false) ∧ ∃ t, takeTurn .rst locked = .next t :=
  ⟨⟨rfl, _, rfl⟩, ⟨rfl, _, rfl⟩, ⟨rfl, _, rfl⟩, by decide, by decide, ⟨rfl, rfl⟩, _, rfl⟩

theorem witness_HaltLastsUntilReset :
    halted.halt = true ∧ (0x2 : Word).getLsbD 0 = false ∧
    (¬ ResetEvent (nextTurn halted).1 halted ∧ halted.FlagsConsistent ∧ ∃ t, step halted = .next t) ∧
    (ResetEvent (nextTurn { halted with host := srst }).1 { halted with host := srst } ∧
      ∃ t, step { halted with host := srst } = .next t) := by
  refine ⟨rfl, rfl, ⟨?_, by decide +kernel, _, rfl⟩, .inr ⟨rfl, 1, [], rfl, rfl⟩, _, rfl⟩
  rintro (h | ⟨-, w, rest, h, -⟩) <;> cases h

theorem witness_UnservedTransactionsAreBusErrors :
    (3 ≠ 4 ∨ (0x010 : Offset).toNat % 4 ≠ 0) ∧ (4 ≠ 4 ∨ (0xFFF : Offset).toNat % 4 ≠ 0) ∧
    { locked with host := [.read 0xFFF 4] }.host = .read 0xFFF 4 :: [] ∧
    { locked with host := [.write 0x010 3 0] }.host = .write 0x010 3 0 :: [] := ⟨by decide +kernel, by decide +kernel, rfl, rfl⟩

theorem witness_ReservedOffsetsReadZeroIgnoreWrites :
    ([0x034, 0x03C, 0x05C, 0x0FC, 0x200, 0xFFC] : List Offset).all (fun off =>
      decide (off.toNat % 4 = 0 ∧
        ((0x034 ≤ off.toNat ∧ off.toNat ≤ 0x03C) ∨ (0x05C ≤ off.toNat ∧ off.toNat ≤ 0x0FC) ∨ 0x200 ≤ off.toNat))) = true := by
  decide +kernel

theorem witness_ServedReadsHaveNoSideEffect :
    (0x000 : Offset).toNat % 4 = 0 ∧ (0xFFC : Offset).toNat % 4 = 0 ∧ locked.busy = false := ⟨rfl, rfl, rfl⟩

/-- A state whose table is the AES S-box. -/
def aesState : State := { State.reset with t := ⟨⟨aesSbox⟩, by decide +kernel⟩ }

theorem witness_SboxWindowReadsAndWrites :
    aesState.busy = false ∧ (0 : Fin 64).val = 0 ∧ aesState.t.toList = aesSbox ∧ (pending .nop 0 0).busy = true ∧
    (255 : Fin 256).val / 4 ≠ (0 : Fin 64).val := ⟨rfl, rfl, rfl, rfl, by decide +kernel⟩

theorem witness_IdentityAndMatrixRegisters : 0 < 4 ∧ 3 < 4 := by decide +kernel

theorem witness_ModRegister :
    (State.reset.busy = false ∧ State.reset.lock = false) ∧ (pending .nop 0 0).busy = true ∧
    (locked.busy = false ∧ locked.lock = true) := ⟨⟨rfl, rfl⟩, rfl, rfl, rfl⟩

theorem witness_OperandAndSeedRegisters : State.reset.busy = false ∧ State.reset.lock = false := ⟨rfl, rfl⟩

theorem witness_ResultRegisters : locked.busy = false ∧ (pending .nop 0 0).busy = true := ⟨rfl, rfl⟩

theorem witness_HostStatementsMakeTheirTransactions :
    ((0xFFC : Offset).toNat % 4 = 0 ∧ (hostFirst (.read 0xFFC 4)).host = .read 0xFFC 4 :: []) ∧
    ((0x004 : Offset).toNat % 4 = 0 ∧ (hostFirst (.write 0x004 4 1)).host = .write 0x004 4 1 :: []) ∧
    ((hostFirst .poll).host = .poll :: [] ∧ (hostFirst .poll).busy = true) ∧
    ({ locked with host := [.poll] }.host = .poll :: [] ∧ { locked with host := [.poll] }.busy = false) ∧
    irq { locked with host := [.waitIrq], done := true, ie := true } = true ∧ irq (hostFirst .waitIrq) = false :=
  ⟨⟨rfl, rfl⟩, ⟨rfl, rfl⟩, ⟨rfl, rfl⟩, ⟨rfl, rfl⟩, rfl, rfl⟩

theorem witness_BothResetsRestoreEveryField :
    (0x7 : Word).getLsbD 0 = true ∧ { pending .mnl 0 0 with turns := [.rst, .host] }.turns = .rst :: [.host] ∧
    ((0x4 : Word).getLsbD 0 = false ∧ (0x4 : Word).getLsbD 1 = false) ∧
    ((0x2 : Word).getLsbD 0 = false ∧ (0x2 : Word).getLsbD 1 = true) := ⟨rfl, rfl, ⟨rfl, rfl⟩, rfl, rfl⟩

theorem witness_ConfigurationFrozenWhileLocked :
    (locked.lock = true ∧ ¬ ResetEvent .host locked ∧ ∃ t, takeTurn .host locked = .next t) ∧
    (ResetEvent .rst locked ∧ ∃ t, takeTurn .rst locked = .next t) ∧
    ((pending .nop 0 0).lock = true ∧ ∃ t, step (pending .nop 0 0) = .next t) ∧ (locked.busy = false ∧ locked.halt = false) := by
  refine ⟨⟨rfl, ?_, _, rfl⟩, ⟨.inl rfl, _, rfl⟩, ⟨rfl, _, rfl⟩, rfl, rfl⟩
  rintro (h | ⟨-, w, rest, h, -⟩) <;> cases h

/-- A pending state and a halted state have the invariant, and a step goes on from each. -/
theorem witness_StepKeepsInvariant :
    ((pending .nop 0 0).Inv ∧ ∃ t, step (pending .nop 0 0) = .next t) ∧ halted.Inv ∧ ∃ t, step halted = .next t := by
  have hp1 : (pending .nop 0 0).FlagsConsistent := by decide +kernel
  have hp2 : (pending .nop 0 0).TableMatchesConst := fun h => by cases h
  have hp3 : (pending .nop 0 0).MetricsInRange := by decide +kernel
  have hh1 : halted.FlagsConsistent := by decide +kernel
  have hh2 : halted.TableMatchesConst := fun h => by cases h
  have hh3 : halted.MetricsInRange := by decide +kernel
  exact ⟨⟨⟨hp1, hp2, hp3⟩, _, rfl⟩, ⟨hh1, hh2, hh3⟩, _, rfl⟩

theorem witness_MachineNeverHalts :
    (pending .mixchk 0 0).halt = false ∧ (pending .mixchk 0 0).err ≠ 5 ∧ ∃ t, step (pending .mixchk 0 0) = .next t :=
  ⟨rfl, by decide +kernel, _, rfl⟩

theorem witness_OnlyUnservedTransactionsStopARun :
    (nextTurn { locked with host := [.read 0x002 4] }).1 = .host ∧ HostStmt.wf (.read 0x002 4) = false := by decide +kernel

end Sys2Proof.Tests
end

section
/-! PROOFS. State (10_state.md): the configuration register MOD, and LOCK, which freezes MOD and SEED. -/

namespace Sys2Proof.Machine

/-! ### Reads and writes at a register's offset -/

/-- A served read of a register that is not ROU answers its value and changes nothing (10_state.md R15). -/
theorem memRead_eq_regValue {off : Offset} {r : Reg} (s : State) (hs : served off 4 = true) (hr : regAt off = r)
    (hrou : readsRou r = false) : memRead off 4 s = ((regValue r s, .okay), s) := by
  rw [memRead_served hs, hr, readReg_not_rou hrou]

/-- A served write is answered OKAY by the register at its offset (20_memory.md R45). -/
theorem memWrite_eq_writeReg {off : Offset} {r : Reg} (w : Word) (s : State) (hs : served off 4 = true)
    (hr : regAt off = r) : memWrite off 4 w s = (.okay, writeReg r w s) := by
  rw [memWrite_served hs, hr]

/-- A write to an RWL register while BUSY = 1 is dropped with BUSYERR (60_exceptions.md R143). -/
theorem writeReg_rwl_of_busy {r : Reg} {s : State} (w : Word) (hr : writeAccess r = .rwl) (hb : s.busy = true) :
    writeReg r w s = setBusyerr s := by
  simp [writeReg, hr, hb]

/-- A write to an RWL register while BUSY = 0 and LOCK = 1 is dropped with CFGERR (60_exceptions.md R144). -/
theorem writeReg_rwl_of_lock {r : Reg} {s : State} (w : Word) (hr : writeAccess r = .rwl) (hb : s.busy = false)
    (hl : s.lock = true) : writeReg r w s = setCfgerr s := by
  simp [writeReg, hr, hb, hl]

/-- A write to an RWL register while BUSY = 0 and LOCK = 0 is taken (10_state.md R15). -/
theorem writeReg_rwl_of_unlocked {r : Reg} {s : State} (w : Word) (hr : writeAccess r = .rwl) (hb : s.busy = false)
    (hl : s.lock = false) : writeReg r w s = storeReg r w s := by
  simp [writeReg, hr, hb, hl]

/-- A write to CTRL, at its offset. -/
theorem memWrite_ctrl (w : Word) (s : State) : memWrite 0x004 4 w s = (.okay, ctrlWrite w s) :=
  memWrite_eq_writeReg (r := .ctrl) w s rfl rfl

/-- A write to CMD, at its offset. -/
theorem memWrite_cmd (w : Word) (s : State) : memWrite 0x00C 4 w s = (.okay, cmdWrite w s) :=
  memWrite_eq_writeReg (r := .cmd) w s rfl rfl

/-! ### MOD (10_state.md R24) -/

/-- The MOD word as a number: bit 8 above the low byte. -/
theorem regValue_mod_toNat (s : State) : (regValue .mod s).toNat = 0x100 + s.mlo.toNat := by
  have hbit : (0#23 ++ 1#1 : BitVec 24).toNat = 1 := rfl
  rw [regValue, BitVec.toNat_append, hbit, ← Nat.shiftLeft_add_eq_or_of_lt s.mlo.isLt]
  rfl

/-- A read of MOD, at any time. -/
theorem memRead_mod (s : State) : memRead 0x020 4 s = ((regValue .mod s, .okay), s) :=
  memRead_eq_regValue s rfl rfl rfl

/-- A write to MOD goes to the RWL register. -/
theorem memWrite_mod (w : Word) (s : State) : memWrite 0x020 4 w s = (.okay, writeReg .mod w s) :=
  memWrite_eq_writeReg w s rfl rfl

/-- Settles O49: MOD is an RWL register that is not ROU, so a read answers its word at any time and a write is one of the
three branches of RWL. -/
theorem modRegister : Obligations.ModRegister := by
  unfold Obligations.ModRegister
  refine ⟨fun s => ⟨regValue .mod s, memRead_mod s, regValue_mod_toNat s⟩, by rw [memRead_mod]; rfl,
    fun s w => ⟨fun hb hl => ?_, fun hb => ?_, fun hb hl => ?_⟩⟩ <;> rw [memWrite_mod]
  · rw [writeReg_rwl_of_unlocked w rfl hb hl]; rfl
  · rw [writeReg_rwl_of_busy w rfl hb]; rfl
  · rw [writeReg_rwl_of_lock w rfl hb hl]; rfl

/-! ### The lock (10_state.md R21) -/

/-- LOCK = 1, and MOD and SEED hold these bytes. -/
structure FrozenAt (mlo seed : Byte) (s : State) : Prop where
  lock : s.lock = true
  mlo : s.mlo = mlo
  seed : s.seed = seed

/-- An operation that keeps LOCK, MOD and SEED keeps the configuration frozen. -/
theorem FrozenAt.of_eq {m v : Byte} {s t : State} (h : FrozenAt m v s) (hl : t.lock = s.lock) (hm : t.mlo = s.mlo)
    (hv : t.seed = s.seed) : FrozenAt m v t :=
  ⟨hl.trans h.lock, hm.trans h.mlo, hv.trans h.seed⟩

/-- No command writes the configuration (40_command.md R73). -/
theorem FrozenAt.exec {m v : Byte} {i : Instr} {s t : State} (h : FrozenAt m v s)
    (he : Machine.exec i s = .next t) : FrozenAt m v t := by
  rw [exec_eq_complete] at he
  obtain ⟨-, rfl⟩ | ⟨-, rfl⟩ := complete_cases he
  · obtain ⟨-, -, -, hm, hv, -, hl, -⟩ := bodyOf_frame i s
    exact h.of_eq hl hm hv
  · exact h.of_eq rfl rfl rfl

/-- The engine's turn keeps a frozen configuration. -/
theorem FrozenAt.engineTurn {m v : Byte} {s t : State} (h : FrozenAt m v s)
    (he : Machine.engineTurn s = .next t) : FrozenAt m v t := by
  obtain ⟨-, rfl⟩ | ⟨-, rfl⟩ | ⟨i, -, -, hexec⟩ := engineTurn_cases he
  · exact h
  · exact h.of_eq rfl rfl rfl
  · exact h.exec hexec

/-- A CMD write keeps a frozen configuration: an acceptance sets LOCK again. -/
theorem FrozenAt.cmdWrite {m v : Byte} {s : State} (h : FrozenAt m v s) (w : Word) :
    FrozenAt m v (Machine.cmdWrite w s) := by
  obtain ⟨-, he⟩ | ⟨-, -, he⟩ | ⟨-, -, he⟩ := cmdWrite_cases w s <;> rw [he]
  · exact h
  · exact h.of_eq rfl rfl rfl
  · exact ⟨rfl, h.mlo, h.seed⟩

/-- A CTRL write without SRST keeps a frozen configuration. -/
theorem FrozenAt.ctrlWrite {m v : Byte} {s : State} {w : Word} (h : FrozenAt m v s) (hw : w.getLsbD 0 = false) :
    FrozenAt m v (Machine.ctrlWrite w s) := by
  obtain ⟨hsrst, -⟩ | ⟨-, -, he⟩ | ⟨-, -, he⟩ := ctrlWrite_cases w s
  · cases hw.symm.trans hsrst
  · rw [he]; exact h.of_eq rfl rfl rfl
  · rw [he]; exact h.of_eq rfl rfl rfl

/-- The store of an RWB register is none of MOD and SEED. -/
theorem FrozenAt.storeReg_rwb {m v : Byte} {r : Reg} {s : State} (h : FrozenAt m v s) (w : Word)
    (hr : writeAccess r = .rwb) : FrozenAt m v (storeReg r w s) := by
  cases r with
  | opa | opb | sbox k => exact h.of_eq rfl rfl rfl
  | _ => cases hr

/-- A host's write that is no soft reset keeps a frozen configuration (10_state.md R21; 60_exceptions.md R144). -/
theorem FrozenAt.writeReg {m v : Byte} {r : Reg} {s : State} {w : Word} (h : FrozenAt m v s)
    (hw : writeAccess r = .ctrl → w.getLsbD 0 = false) : FrozenAt m v (Machine.writeReg r w s) := by
  obtain he | ⟨hr, he⟩ | he | ⟨-, he⟩ | ⟨-, -, he⟩ | ⟨-, hr, he⟩ | ⟨-, hl, -⟩ := writeReg_cases r w s
  · rwa [he]
  · rw [he]; exact h.ctrlWrite (hw hr)
  · rw [he]; exact h.cmdWrite w
  · rw [he]; exact h.of_eq rfl rfl rfl
  · rw [he]; exact h.of_eq rfl rfl rfl
  · rw [he]; exact h.storeReg_rwb w hr
  · simp [h.lock] at hl

/-- A host's write with SRST = 1 at CTRL's offset is a reset event (70_reset_and_hazards.md R152). -/
theorem resetEvent_of_srst {off : Offset} {n : Nat} {w : Word} {rest : List HostStmt} {s : State}
    (hh : s.host = .write off n w :: rest) (hs : served off n = true) (hr : writeAccess (regAt off) = .ctrl)
    (hw : w.getLsbD 0 = true) : ResetEvent .host s := by
  obtain rfl := regAt_ctrl hs hr
  obtain ⟨rfl, -⟩ := (served_iff _ _).mp hs
  exact .inr ⟨rfl, w, rest, hh, hw⟩

/-- The host's turn, when it is no reset event, keeps a frozen configuration. -/
theorem FrozenAt.hostTurn {m v : Byte} {s t : State} (h : FrozenAt m v s) (hno : ¬ ResetEvent .host s)
    (ht : Machine.hostTurn s = .next t) : FrozenAt m v t := by
  obtain rfl | ⟨_, rfl⟩ | ⟨_, _, rfl⟩ | ⟨_, _, -, rfl⟩ | ⟨off, n, w, rest, hh, hs, rfl⟩ := hostTurn_cases ht
  · exact h
  · exact h.of_eq rfl rfl rfl
  · exact h.of_eq rfl rfl rfl
  · exact h.of_eq rfl rfl rfl
  · have hw : writeAccess (regAt off) = .ctrl → w.getLsbD 0 = false := fun hr =>
      Bool.eq_false_iff.mpr fun hw => hno (resetEvent_of_srst hh hs hr hw)
    exact (h.writeReg hw).of_eq rfl rfl rfl

/-- Whichever agent has the turn, a turn that is no reset event keeps a frozen configuration (10_state.md R21). -/
theorem FrozenAt.takeTurn {m v : Byte} {u : Turn} {s t : State} (h : FrozenAt m v s) (hno : ¬ ResetEvent u s)
    (ht : Machine.takeTurn u s = .next t) : FrozenAt m v t := by
  cases u with
  | engine => exact h.engineTurn ht
  | host => exact h.hostTurn hno ht
  | rst => exact absurd (.inl rfl) hno

/-- Taking the next turn off the schedule keeps a frozen configuration. -/
theorem FrozenAt.nextTurn {m v : Byte} {s : State} (h : FrozenAt m v s) : FrozenAt m v (Machine.nextTurn s).2 := by
  unfold Machine.nextTurn
  split
  · exact h
  · exact h.of_eq rfl rfl rfl

/-! ### The reset event (70_reset_and_hazards.md R152, R153) -/

/-- The soft reset: the host's CTRL write with SRST = 1 resets the block and is recorded. -/
theorem hostTurn_srst {w : Word} {rest : List HostStmt} {s : State} (hh : s.host = .write 0x004 4 w :: rest)
    (hw : w.getLsbD 0 = true) :
    hostTurn s = .next (setHost rest (record (.wrote 0x004 w) (resetBlock s))) := by
  have hreset : ctrlWrite w s = resetBlock s := if_pos hw
  simp only [hostTurn, hh, hostWrite, memWrite_ctrl, hreset]

/-- A reset event resets the block; only the host's own side may change beside it. -/
theorem takeTurn_resetEvent {u : Turn} {s t : State} (hr : ResetEvent u s) (ht : takeTurn u s = .next t) :
    t = resetBlock s ∨ ∃ rest rec, t = setHost rest (record rec (resetBlock s)) := by
  obtain rfl | ⟨rfl, w, rest, hh, hw⟩ := hr
  · exact .inl (by simpa [takeTurn] using ht.symm)
  · exact .inr ⟨rest, _, by simpa [takeTurn, hostTurn_srst hh hw] using ht.symm⟩

/-- A reset event leaves the reset configuration, unlocked and with no pending command (10_state.md R40). -/
theorem takeTurn_resetEvent_config {u : Turn} {s t : State} (hr : ResetEvent u s) (ht : takeTurn u s = .next t) :
    t.lock = false ∧ t.busy = false ∧ t.mlo = 0x1B ∧ t.seed = 0xF1 := by
  obtain rfl | ⟨rest, rec, rfl⟩ := takeTurn_resetEvent hr ht
  · exact ⟨rfl, rfl, rfl, rfl⟩
  · exact ⟨rfl, rfl, rfl, rfl⟩

/-! ### Acceptance (40_command.md R69) -/

/-- A CMD write with BUSY = 0 and HALT = 0 is accepted. -/
theorem cmdWrite_of_idle {s : State} (w : Word) (hb : s.busy = false) (hh : s.halt = false) :
    cmdWrite w s = accept w s := by
  simp [cmdWrite, hh, hb]

/-- Settles O56: a turn either is no reset event and keeps the frozen configuration, or leaves the reset configuration; a step
is a turn taken after the schedule is advanced. -/
theorem configurationFrozenWhileLocked : Obligations.ConfigurationFrozenWhileLocked := by
  unfold Obligations.ConfigurationFrozenWhileLocked
  refine ⟨fun u s s' hl ht => ⟨fun hno => ?_, fun hr => takeTurn_resetEvent_config hr ht⟩,
    fun s s' hl ht => ?_, fun s w hb hh => ?_⟩
  · have hs : FrozenAt s.mlo s.seed s := ⟨hl, rfl, rfl⟩
    obtain ⟨hl', hm, hv⟩ := hs.takeTurn hno ht
    exact ⟨hl', hm, hv⟩
  · have hs : FrozenAt s.mlo s.seed (nextTurn s).2 := FrozenAt.nextTurn ⟨hl, rfl, rfl⟩
    by_cases hr : ResetEvent (nextTurn s).1 (nextTurn s).2
    · exact .inr (takeTurn_resetEvent_config hr ht)
    · obtain ⟨hl', hm, hv⟩ := hs.takeTurn hr ht
      exact .inl ⟨hl', hm, hv⟩
  · rw [memWrite_cmd, cmdWrite_of_idle w hb hh, accept_lock]

end Sys2Proof.Machine

end

section
/-! PROOFS. The window (20_memory.md): transactions that are not served, and the reserved offsets. -/

namespace Sys2Proof.Machine

/-! ### Transactions that are not served (20_memory.md R46) -/

/-- A size other than 4 or a misaligned offset is not served. -/
theorem served_eq_false {off : Offset} {n : Nat} (h : n ≠ 4 ∨ off.toNat % 4 ≠ 0) : served off n = false := by
  rw [Bool.eq_false_iff, ne_eq, served_iff, not_and_or]
  exact h

/-- An unserved read faults the host's program. -/
theorem hostRead_unserved {off : Offset} {n : Nat} {s : State} (rest : List HostStmt) (h : served off n = false) :
    hostRead off n rest s = .fault (.busError off) := by
  simp only [hostRead, memRead_unserved h]

/-- An unserved write faults the host's program. -/
theorem hostWrite_unserved {off : Offset} {n : Nat} {s : State} (w : Word) (rest : List HostStmt)
    (h : served off n = false) : hostWrite off n w rest s = .fault (.busError off) := by
  simp only [hostWrite, memWrite_unserved h]

/-- The host's turn at a read statement is that read. -/
theorem hostTurn_read {off : Offset} {n : Nat} {rest : List HostStmt} {s : State} (h : s.host = .read off n :: rest) :
    hostTurn s = hostRead off n rest s := by
  simp only [hostTurn, h]

/-- The host's turn at a write statement is that write. -/
theorem hostTurn_write {off : Offset} {n : Nat} {w : Word} {rest : List HostStmt} {s : State}
    (h : s.host = .write off n w :: rest) : hostTurn s = hostWrite off n w rest s := by
  simp only [hostTurn, h]

/-- Settles O44: a transaction of another size or at a misaligned offset is not served, so the window answers ERROR with the
state it had, and the host's statement, which is that transaction, faults. -/
theorem unservedTransactionsAreBusErrors : Obligations.UnservedTransactionsAreBusErrors := by
  unfold Obligations.UnservedTransactionsAreBusErrors
  intro s off n w h
  have hs : served off n = false := served_eq_false h
  refine ⟨memRead_unserved hs, memWrite_unserved hs, fun rest hh => ?_, fun rest hh => ?_⟩
  · rw [hostTurn_read hh, hostRead_unserved rest hs]
  · rw [hostTurn_write hh, hostWrite_unserved w rest hs]

/-! ### Reserved offsets (20_memory.md R43, R44) -/

/-- The map has no register at an aligned offset of its three reserved ranges: it is no register's offset, so the map's last
row decides, and it is outside the S-box window. -/
theorem regAt_reserved {off : Offset} (h4 : off.toNat % 4 = 0)
    (h : (0x034 ≤ off.toNat ∧ off.toNat ≤ 0x03C) ∨ (0x05C ≤ off.toNat ∧ off.toNat ≤ 0x0FC) ∨ 0x200 ≤ off.toNat) :
    regAt off = .reserved := by
  have hword : off.toNat / 4 * 4 = off.toNat := by omega
  have hsbox : ¬ (0x100 ≤ off.toNat ∧ off.toNat < 0x200) := by omega
  unfold regAt
  rw [hword]
  split
  case h_21 => rw [dif_neg hsbox]
  all_goals omega

/-- A write to a register that ignores writes changes nothing (10_state.md R15). -/
theorem writeReg_ignored {r : Reg} (w : Word) (s : State) (h : writeAccess r = .ignored) : writeReg r w s = s := by
  simp only [writeReg, h]

/-- Settles O45: the map leaves these offsets to no register, and a reserved word is not ROU, holds 0 and ignores writes. -/
theorem reservedOffsetsReadZeroIgnoreWrites : Obligations.ReservedOffsetsReadZeroIgnoreWrites := by
  unfold Obligations.ReservedOffsetsReadZeroIgnoreWrites
  intro s off w h4 h
  have hs : served off 4 = true := (served_iff off 4).mpr ⟨rfl, h4⟩
  have hr : regAt off = .reserved := regAt_reserved h4 h
  refine ⟨memRead_eq_regValue s hs hr rfl, ?_⟩
  rw [memWrite_eq_writeReg w s hs hr, writeReg_ignored w s rfl]

end Sys2Proof.Machine

end

section
/-! PROOFS. Encoding (30_encoding.md): which command words the decoder accepts, and the completion of the others. -/

namespace Sys2Proof

/-! ### The decoder and `legal` (30_encoding.md R58, R59) -/

/-- RSV = 0 says that the word is less than 256 (30_encoding.md R58). -/
theorem rsv_eq_zero_iff (w : Word) : w.extractLsb' 8 24 = 0 ↔ w.toNat < 0x100 := by
  rw [← BitVec.toNat_inj]
  simp only [BitVec.extractLsb'_toNat, Nat.shiftRight_eq_div_pow, BitVec.ofNat_eq_ofNat, BitVec.toNat_ofNat]
  have := w.isLt
  omega

/-- `legal` writes RSV = 0 as a shift. -/
theorem ushiftRight_eight_eq_zero_iff (w : Word) : w >>> 8 = 0 ↔ w.toNat < 0x100 := by
  rw [← BitVec.toNat_inj]
  simp only [BitVec.toNat_ushiftRight, Nat.shiftRight_eq_div_pow, BitVec.ofNat_eq_ofNat, BitVec.toNat_ofNat]
  omega

/-- A word is legal when it is less than 256 and its low byte is a defined OPC (30_encoding.md R59). -/
theorem legal_iff (w : Word) : CommandWord.legal w = true ↔ w.toNat < 0x100 ∧ w.setWidth 8 ∈ definedOpcodes := by
  rw [CommandWord.legal, Bool.and_eq_true, beq_iff_eq, ushiftRight_eight_eq_zero_iff, List.contains_iff_mem]

/-- The opcode map gives a command to exactly the defined OPC values (30_encoding.md R59, R61). -/
theorem exists_decodeOpcode_iff (opc : Byte) : (∃ i, decodeOpcode opc = some i) ↔ opc ∈ definedOpcodes := by
  rw [← Option.isSome_iff_exists]
  revert opc
  decide +kernel

/-- A word decodes to the command of its low byte, when it is less than 256 (30_encoding.md R58, R59). -/
theorem decode_eq_ok_iff (w : Word) (i : Instr) :
    decode w = .ok i ↔ w.toNat < 0x100 ∧ decodeOpcode (w.setWidth 8) = some i := by
  rw [← rsv_eq_zero_iff, BitVec.setWidth_eq_extractLsb' (by decide), decode]
  by_cases hrsv : w.extractLsb' 8 24 = 0
  · cases decodeOpcode (w.extractLsb' 0 8) <;> simp [hrsv]
  · rw [if_neg hrsv]
    exact iff_of_false nofun fun h => hrsv h.1

/-- The decoder accepts exactly the legal words (30_encoding.md R59). -/
theorem exists_decode_ok_iff_legal (w : Word) : (∃ i, decode w = .ok i) ↔ CommandWord.legal w = true := by
  simp only [decode_eq_ok_iff, exists_and_left, exists_decodeOpcode_iff, legal_iff]

/-- The decoder rejects exactly the words that are not legal (30_encoding.md R59, R62). -/
theorem exists_decode_error_iff_not_legal (w : Word) :
    (∃ e, decode w = .error e) ↔ ¬ CommandWord.legal w = true := by
  rw [← exists_decode_ok_iff_legal]
  cases decode w <;> simp

/-! ### The illegal ranges (30_encoding.md R62) -/

/-- The OPC values outside the opcode map, by the rule's ranges (30_encoding.md R62). -/
theorem not_mem_definedOpcodes_iff (opc : Byte) : opc ∉ definedOpcodes ↔
    ((0x04 ≤ opc.toNat ∧ opc.toNat ≤ 0x07) ∨ (0x09 ≤ opc.toNat ∧ opc.toNat ≤ 0x0F) ∨
      (0x13 ≤ opc.toNat ∧ opc.toNat ≤ 0x1F) ∨ (0x28 ≤ opc.toNat ∧ opc.toNat ≤ 0x2F) ∨
      (0x37 ≤ opc.toNat ∧ opc.toNat ≤ 0xFF)) := by
  revert opc
  decide +kernel

namespace Machine

/-! ### The completion of an illegal word (60_exceptions.md R138) -/

/-- The engine's turn at a pending word that the decoder rejects. -/
theorem engineTurn_of_decode_error {s : State} {e : DecodeError} (hb : s.busy = true) (he : decode s.cmd = .error e) :
    engineTurn s = .next (completeIllegal s) := by
  simp only [engineTurn, hb, if_true, completePending, he]

/-- Settles O2: the decoder accepts exactly the legal words, so a pending word that is not legal is rejected at its
completion, which is the end of a completion after `SetErr(1)`. -/
theorem illegalPendingWordReportsIllegal : Obligations.IllegalPendingWordReportsIllegal := by
  unfold Obligations.IllegalPendingWordReportsIllegal
  refine ⟨exists_decode_ok_iff_legal, fun s hb hl => ?_⟩
  obtain ⟨e, he⟩ := (exists_decode_error_iff_not_legal s.cmd).mpr (Bool.eq_false_iff.mp hl)
  rw [engineTurn_of_decode_error hb he]
  rfl

/-- Settles O3: a word that is not legal is 256 or more, or an OPC value outside the opcode map; the acceptance of a command
word looks at no bit of it, and the accepted word is then rejected at its completion. -/
theorem reservedEncodingsAreAcceptedThenIllegal : Obligations.ReservedEncodingsAreAcceptedThenIllegal := by
  unfold Obligations.ReservedEncodingsAreAcceptedThenIllegal
  refine ⟨fun w => ?_, fun s w e he hb hh => ⟨?_, ?_⟩⟩
  · rw [exists_decode_error_iff_not_legal, legal_iff, not_and_or, not_lt]
    by_cases hw : w.toNat < 0x100
    · have hopc : (w.setWidth 8).toNat = w.toNat := by
        rw [BitVec.toNat_setWidth, Nat.mod_eq_of_lt hw]
      rw [not_mem_definedOpcodes_iff, hopc]
    · exact iff_of_true (.inl (not_lt.mp hw)) (.inl (not_lt.mp hw))
  · rw [memWrite_cmd, cmdWrite_of_idle w hb hh]
    rfl
  · change engineTurn (accept w s) = _
    rw [engineTurn_of_decode_error (accept_busy w s) he]
    rfl

end Machine

end Sys2Proof

end

section
/-! PROOFS. Commands (40_command.md): the three branches of a CMD write, and NOP. -/

namespace Sys2Proof.Machine

/-! ### The CMD write (40_command.md R69) -/

/-- A CMD write with HALT = 1 is ignored. -/
theorem cmdWrite_of_halt {s : State} (w : Word) (hh : s.halt = true) : cmdWrite w s = s := by
  simp [cmdWrite, hh]

/-- A CMD write with HALT = 0 and BUSY = 1 is dropped with BUSYERR. -/
theorem cmdWrite_of_busy {s : State} (w : Word) (hh : s.halt = false) (hb : s.busy = true) :
    cmdWrite w s = setBusyerr s := by
  simp [cmdWrite, hh, hb]

/-- Settles O7: a write at CMD's offset is answered OKAY and is the CMD write, whose three branches are told apart by HALT and
BUSY alone. -/
theorem commandWriteAcceptance : Obligations.CommandWriteAcceptance := by
  unfold Obligations.CommandWriteAcceptance
  refine fun s w => ⟨fun hh => ?_, fun hh hb => ?_, fun hh hb => ?_⟩ <;> rw [memWrite_cmd]
  · rw [cmdWrite_of_halt w hh]
  · rw [cmdWrite_of_busy w hh hb]; rfl
  · rw [cmdWrite_of_idle w hb hh]; rfl

/-! ### NOP (40_command.md R77) -/

/-- The engine's turn at a pending word that the decoder accepts executes the command (40_command.md R71). -/
theorem engineTurn_of_decode_ok {s : State} {i : Instr} (hb : s.busy = true) (hd : decode s.cmd = .ok i) :
    engineTurn s = exec i s := by
  simp only [engineTurn, hb, if_true, completePending, hd]

/-- The word 0 is NOP (30_encoding.md R61). -/
theorem decode_zero : decode 0x00000000 = .ok .nop :=
  (decode_eq_ok_iff _ _).mpr ⟨by decide, rfl⟩

/-- NOP checks no operand and its body is empty, so its completion is the end of a completion alone. -/
theorem exec_nop (s : State) : exec .nop s = .next (finish s) := by
  rw [exec_eq_complete, complete_ok rfl]
  rfl

/-- The engine's turn after the acceptance of the word 0 completes NOP. -/
theorem engineTurn_accept_zero (s : State) :
    engineTurn (accept 0x00000000 s) = .next (finish (accept 0x00000000 s)) := by
  rw [engineTurn_of_decode_ok (accept_busy _ s) decode_zero, exec_nop]

/-- A read of STATUS, at any time. -/
theorem memRead_status (s : State) : memRead 0x008 4 s = ((statusWord s, .okay), s) :=
  memRead_eq_regValue (r := .status) s rfl rfl rfl

/-- Settles O12: NOP's completion is the end of a completion alone, and its acceptance is that of any word; from reset the
flags left in STATUS are the LOCK of the acceptance and the DONE of the completion. -/
theorem nopOnlyCompletes : Obligations.NopOnlyCompletes := by
  unfold Obligations.NopOnlyCompletes
  refine ⟨decode_zero, exec_nop, fun s hb hh => ?_, finish (accept 0x00000000 State.reset), ?_, ?_⟩
  · rw [memWrite_cmd, cmdWrite_of_idle _ hb hh, accept_lock]
  · rw [memWrite_cmd, cmdWrite_of_idle _ rfl rfl, engineTurn_accept_zero]
  · rw [memRead_status]
    rfl

end Sys2Proof.Machine

end

section
/-! PROOFS. Field arithmetic (41_field.md): the completion of a command on byte operands, GMUL and GDBL. -/

namespace Sys2Proof.Machine

/-! ### Completion on byte operands (30_encoding.md R60; 40_command.md R71) -/

/-- A command of form B whose operand is a byte completes its body. -/
theorem exec_of_byte_operand {i : Instr} {s : State} {a : Byte} (hi : form i = .b) (ha : s.opa = a.setWidth 32) :
    exec i s = .next (finish (bodyOf i s)) := by
  have hok : operandsOk (form i) s = true := by
    rw [hi, operandsOk, ha, byteOperand_setWidth]
  rw [exec_eq_complete, complete_ok hok]

/-- A command of form BB whose operands are bytes completes its body. -/
theorem exec_of_byte_operands {i : Instr} {s : State} {a b : Byte} (hi : form i = .bb) (ha : s.opa = a.setWidth 32)
    (hb : s.opb = b.setWidth 32) : exec i s = .next (finish (bodyOf i s)) := by
  have hok : operandsOk (form i) s = true := by
    rw [hi, operandsOk, ha, hb, byteOperand_setWidth, byteOperand_setWidth, Bool.and_self]
  rw [exec_eq_complete, complete_ok hok]

/-! ### `mul` by 0 and by 1 (41_field.md R81) -/

/-- The carry-less product of 0 and a byte: nothing is ever XORed in. -/
theorem clmul_zero_left (b : Byte) : clmul 0 b = 0 := by
  simp [clmul, bitPositions]

/-- The carry-less product of 1 and a byte is that byte, checked on each of the 256. -/
theorem clmul_one_left (b : Byte) : clmul 1 b = b.setWidth 16 := by
  revert b
  decide +kernel

/-- A product that is a byte has no bit for the reduction to clear. -/
theorem reduce_setWidth (mlo v : Byte) : reduce mlo (v.setWidth 16) = v := by
  simp [reduce]

theorem mul_zero_left (mlo b : Byte) : mul mlo 0 b = 0 := by
  rw [mul, clmul_zero_left]
  exact reduce_setWidth mlo 0

/-- 0 = 0 XOR 0, and `mul` adds in its second argument. -/
theorem mul_zero_right (mlo a : Byte) : mul mlo a 0 = 0 := by
  have h := mul_xor_right mlo a 0 0
  rwa [BitVec.xor_self, BitVec.xor_self] at h

theorem mul_one_left (mlo b : Byte) : mul mlo 1 b = b := by
  rw [mul, clmul_one_left, reduce_setWidth]

/-! ### GMUL (41_field.md R85) -/

/-- GMUL on byte operands: RES0 is the product, and the completion ends. -/
theorem exec_gmul {s : State} {a b : Byte} (ha : s.opa = a.setWidth 32) (hb : s.opb = b.setWidth 32) :
    exec .gmul s = .next (finish (writeRes0 (mul s.mlo a b) s)) := by
  rw [exec_of_byte_operands rfl ha hb, bodyOf, operandA_setWidth ha, operandB_setWidth hb]

/-- Settles O13: GMUL's completion is one write of RES0 and the end of a completion; the corner cases are the laws of `mul` by
0 and by 1. -/
theorem gmulWritesProduct : Obligations.GmulWritesProduct := by
  unfold Obligations.GmulWritesProduct
  refine ⟨(decode_eq_ok_iff _ _).mpr ⟨by decide, rfl⟩, fun s a b ha hb => ?_,
    fun mlo a b => ⟨mul_zero_left mlo b, mul_zero_right mlo a, mul_one_left mlo b⟩, by decide, by decide⟩
  rw [exec_gmul ha hb]
  rfl

/-! ### GDBL (41_field.md R83, R87) -/

/-- Bit 7 of a byte, in numbers. -/
theorem getLsbD_seven_iff (a : Byte) : a.getLsbD 7 = true ↔ 128 ≤ a.toNat := by
  rw [← BitVec.msb_eq_getLsbD_last, BitVec.msb_eq_decide, decide_eq_true_iff]

/-- The left shift by one is the doubling without its carry. -/
theorem shiftLeft_one_eq_ofNat (a : Byte) : a <<< 1 = BitVec.ofNat 8 (2 * a.toNat) := by
  rw [← BitVec.toNat_inj, BitVec.toNat_shiftLeft, BitVec.toNat_ofNat, Nat.shiftLeft_eq, pow_one, Nat.mul_comm]

/-- `dbl` in numbers: twice the byte, with the modulus' low byte XORed in when that is 256 or more. -/
theorem dbl_eq_ofNat (mlo a : Byte) :
    dbl mlo a = BitVec.ofNat 8 (2 * a.toNat) ^^^ (if 128 ≤ a.toNat then mlo else 0) := by
  rw [dbl, shiftLeft_one_eq_ofNat, if_congr (getLsbD_seven_iff a) rfl rfl]

/-- 0x80 doubles to x^8 alone, which is `mlo` modulo M. -/
theorem dbl_0x80 (mlo : Byte) : dbl mlo 0x80 = mlo := by
  simp [dbl]

theorem dbl_zero (mlo : Byte) : dbl mlo 0x00 = 0x00 := by
  simp [dbl]

/-- GDBL on a byte operand: RES0 is the doubled byte, and the completion ends. -/
theorem exec_gdbl {s : State} {a : Byte} (ha : s.opa = a.setWidth 32) :
    exec .gdbl s = .next (finish (writeRes0 (dbl s.mlo a) s)) := by
  rw [exec_of_byte_operand rfl ha, bodyOf, operandA_setWidth ha]

/-- Settles O15: GDBL's completion is one write of RES0 and the end of a completion, and the byte written is `dbl` in
numbers. -/
theorem gdblWritesDouble : Obligations.GdblWritesDouble := by
  unfold Obligations.GdblWritesDouble
  refine ⟨(decode_eq_ok_iff _ _).mpr ⟨by decide, rfl⟩, fun s a ha => ?_,
    fun mlo => ⟨dbl_0x80 mlo, dbl_zero mlo⟩, by decide, by decide⟩
  rw [exec_gdbl ha, dbl_eq_ofNat]
  rfl

end Sys2Proof.Machine

end

section
/-! PROOFS. The affine transform (42_affine.md): the bits of `aff`, when it gives its constant alone, and AFFINE. -/

namespace Sys2Proof.Machine

/-! ### The bits of `aff` (42_affine.md R91) -/

/-- Output bit i is the parity of row i masked by the input, plus (XOR) bit i of the constant. -/
theorem getLsbD_aff (seed x c : Byte) {i : Nat} (hi : i < 8) :
    (aff seed x c).getLsbD i = (parity (affineRow seed i &&& x) ^^ c.getLsbD i) :=
  getLsbD_byteOfBits _ i hi

/-- Where the input meets no row of the matrix, every parity is 0 and the constant is left. -/
theorem aff_eq_const {seed x : Byte} (h : ∀ i, affineRow seed i &&& x = 0) (c : Byte) : aff seed x c = c := by
  refine BitVec.eq_of_getLsbD_eq fun i hi => ?_
  have hp : parity 0 = false := by decide
  rw [getLsbD_aff seed x c hi, h i, hp, Bool.false_xor]

theorem aff_zero_input (seed c : Byte) : aff seed 0 c = c :=
  aff_eq_const (fun _ => BitVec.and_zero) c

/-- Every rotation of the zero seed is zero (42_affine.md R90). -/
theorem affineRow_zero_seed (i : Nat) : affineRow 0 i = 0 := by
  simp [affineRow, rotl8, BitVec.rotateLeft, BitVec.rotateLeftAux]

theorem aff_zero_seed (x c : Byte) : aff 0 x c = c :=
  aff_eq_const (fun i => by rw [affineRow_zero_seed]; exact BitVec.zero_and) c

/-! ### AFFINE (42_affine.md R92) -/

/-- AFFINE on byte operands: RES0 is the transformed byte, and the completion ends. -/
theorem exec_affine {s : State} {x c : Byte} (hx : s.opa = x.setWidth 32) (hc : s.opb = c.setWidth 32) :
    exec .affine s = .next (finish (writeRes0 (aff s.seed x c) s)) := by
  rw [exec_of_byte_operands rfl hx hc, bodyOf, operandA_setWidth hx, operandB_setWidth hc]

/-- Settles O20: AFFINE's completion is one write of RES0 and the end of a completion; in both corner cases the input meets no
row of the matrix. -/
theorem affineWritesTransform : Obligations.AffineWritesTransform := by
  unfold Obligations.AffineWritesTransform
  refine ⟨(decode_eq_ok_iff _ _).mpr ⟨by decide, rfl⟩, fun s x c hx hc => ?_,
    fun seed x c => ⟨aff_zero_input seed c, aff_zero_seed x c⟩, by decide, by decide, by decide⟩
  rw [exec_affine hx hc]
  rfl

end Sys2Proof.Machine

end

section
/-! PROOFS. The ring of the bytes (41_field.md): `mul` under any modulus is commutative and associative, because a linear map that
commutes with the doubling is a product; so an inverse is the only one, and `inv` finds it. -/

namespace Sys2Proof.Machine

/-! ### The reduction doubles with its input (41_field.md R81, R83) -/

/-- One step of the reduction in `reduce`. -/
def reduceStep (mlo : Byte) (p : BitVec 16) (d : Nat) : BitVec 16 :=
  if p.getLsbD d then p ^^^ (modulus16 mlo <<< (d - 8)) else p

theorem reduce_eq_foldl (mlo : Byte) (p : BitVec 16) :
    reduce mlo p = ([14, 13, 12, 11, 10, 9, 8].foldl (reduceStep mlo) p).setWidth 8 := rfl

/-- Shifting a product and the bit to clear by one place shifts the step's result. -/
theorem reduceStep_shiftLeft (mlo : Byte) (p : BitVec 16) {d : Nat} (h8 : 8 ≤ d) (h15 : d < 15) :
    reduceStep mlo (p <<< 1) (d + 1) = reduceStep mlo p d <<< 1 := by
  have hd : d + 1 - 8 = (d - 8) + 1 := by omega
  have hbit : (p <<< 1).getLsbD (d + 1) = p.getLsbD d := by
    rw [BitVec.getLsbD_shiftLeft, Nat.add_sub_cancel, decide_eq_true (by omega), decide_eq_false (by omega)]
    rfl
  rw [reduceStep, reduceStep, hbit, hd, BitVec.shiftLeft_add]
  split
  · rw [BitVec.shiftLeft_xor_distrib]
  · rfl

/-- The last step, on a shifted remainder, is the doubling. -/
theorem setWidth_reduceStep_eight (mlo : Byte) (p : BitVec 16) :
    (reduceStep mlo (p <<< 1) 8).setWidth 8 = dbl mlo (p.setWidth 8) := by
  have hbit : (p <<< 1).getLsbD 8 = (p.setWidth 8).getLsbD 7 := by simp
  have hshift : (p <<< 1).setWidth 8 = p.setWidth 8 <<< 1 := by
    ext i hi
    grind
  have hm : (modulus16 mlo).setWidth 8 = mlo := by
    rw [modulus16, BitVec.setWidth_setWidth_of_le _ (by decide), BitVec.setWidth_append_eq_right]
  rw [reduceStep, dbl, hbit]
  split
  · rw [BitVec.setWidth_xor, hshift, Nat.sub_self, BitVec.shiftLeft_zero, hm]
  · rw [hshift]
    exact BitVec.xor_zero.symm

/-- The remainder of a shifted product is the doubled remainder (a product has degree 14 at most). -/
theorem reduce_shiftLeft (mlo : Byte) {p : BitVec 16} (hp : p.getLsbD 14 = false) :
    reduce mlo (p <<< 1) = dbl mlo (reduce mlo p) := by
  have h14 : reduceStep mlo p 14 = p := by rw [reduceStep, hp]; rfl
  have hs {d : Nat} (h8 : 8 ≤ d) (h15 : d < 15) (q : BitVec 16) := reduceStep_shiftLeft mlo q h8 h15
  simp only [reduce_eq_foldl, List.foldl_cons, List.foldl_nil, h14]
  rw [hs (d := 13), hs (d := 12), hs (d := 11), hs (d := 10), hs (d := 9), hs (d := 8),
    setWidth_reduceStep_eight] <;> omega

theorem dbl_xor (mlo a b : Byte) : dbl mlo (a ^^^ b) = dbl mlo a ^^^ dbl mlo b := by
  have hcarry (x y : Bool) : (if x ^^ y then mlo else 0) = (if x then mlo else 0) ^^^ (if y then mlo else 0) := by
    cases x <;> cases y <;> simp
  rw [dbl, dbl, dbl, BitVec.shiftLeft_xor_distrib, BitVec.getLsbD_xor, hcarry]
  ac_rfl

/-! ### Linear maps of the bytes -/

/-- `f` is linear over GF(2): it takes sums (XORs) to sums. -/
def XorLinear (f : Byte → Byte) : Prop := ∀ x y, f (x ^^^ y) = f x ^^^ f y

theorem xorLinear_dbl (mlo : Byte) : XorLinear (dbl mlo) := dbl_xor mlo

theorem xorLinear_mul (mlo a : Byte) : XorLinear (mul mlo a) := mul_xor_right mlo a

theorem XorLinear.comp {f g : Byte → Byte} (hf : XorLinear f) (hg : XorLinear g) : XorLinear fun x => f (g x) :=
  fun x y => by simp only [hg x y, hf (g x)]

theorem XorLinear.xor {f g : Byte → Byte} (hf : XorLinear f) (hg : XorLinear g) : XorLinear fun x => f x ^^^ g x := by
  intro x y
  simp only [hf x y, hg x y]
  ac_rfl

theorem XorLinear.iterate {f : Byte → Byte} (hf : XorLinear f) : ∀ n, XorLinear f^[n]
  | 0 => fun _ _ => rfl
  | n + 1 => by
    intro x y
    rw [Function.iterate_succ_apply, hf, hf.iterate n]
    rfl

/-- `y` with bit i of `b` added. -/
def addBit (b y : Byte) (i : Nat) : Byte := if b.getLsbD i then y ^^^ (1#8 <<< i) else y

/-- A byte is the sum of its bits. -/
theorem foldl_addBit_eq (b : Byte) : bitPositions.foldl (addBit b) 0 = b := by
  revert b
  decide +kernel

theorem XorLinear.map_zero {f : Byte → Byte} (hf : XorLinear f) : f 0 = 0 := by
  simpa using hf 0 0

/-- A linear map is fixed by its values on the bits. -/
theorem XorLinear.ext {f g : Byte → Byte} (hf : XorLinear f) (hg : XorLinear g)
    (h : ∀ i < 8, f (1#8 <<< i) = g (1#8 <<< i)) (b : Byte) : f b = g b := by
  have hfold : ∀ (l : List Nat) (y : Byte), (∀ i ∈ l, i < 8) → f y = g y →
      f (l.foldl (addBit b) y) = g (l.foldl (addBit b) y) := by
    intro l
    induction l with
    | nil => exact fun _ _ hy => hy
    | cons i l ih =>
      intro y hl hy
      refine ih _ (fun j hj => hl j (List.mem_cons_of_mem i hj)) ?_
      rw [addBit]
      split
      · rw [hf, hg, hy, h i (hl i List.mem_cons_self)]
      · exact hy
  have hb := hfold bitPositions 0 (by decide) (by rw [hf.map_zero, hg.map_zero])
  rwa [foldl_addBit_eq] at hb

/-! ### `mul` by a bit is repeated doubling (41_field.md R81, R83) -/

/-- The carry-less product with bit j is a shift. -/
theorem clmul_bit (a : Byte) {j : Nat} (hj : j < 8) : clmul a (1#8 <<< j) = a.setWidth 16 <<< j := by
  interval_cases j <;> simp [clmul, bitPositions]

theorem mul_bit (mlo a : Byte) : ∀ {j : Nat}, j < 8 → mul mlo a (1#8 <<< j) = (dbl mlo)^[j] a
  | 0, _ => by
    rw [mul, clmul_bit a (by decide), BitVec.shiftLeft_zero, reduce_setWidth]
    rfl
  | j + 1, hj => by
    have hdeg : (a.setWidth 16 <<< j).getLsbD 14 = false := by
      simp [BitVec.getLsbD_of_ge a (14 - j) (by omega)]
    have hj' : j < 8 := by omega
    rw [Function.iterate_succ_apply', ← mul_bit mlo a hj', mul, mul, clmul_bit a hj, clmul_bit a hj',
      BitVec.shiftLeft_add, reduce_shiftLeft mlo hdeg]

/-! ### The ring laws (41_field.md section 1) -/

theorem mul_xor_left (mlo a b c : Byte) : mul mlo (a ^^^ b) c = mul mlo a c ^^^ mul mlo b c := by
  refine XorLinear.ext (xorLinear_mul mlo _) ((xorLinear_mul mlo a).xor (xorLinear_mul mlo b)) (fun i hi => ?_) c
  rw [mul_bit mlo _ hi, mul_bit mlo _ hi, mul_bit mlo _ hi, (xorLinear_dbl mlo).iterate]

theorem mul_dbl_left (mlo a b : Byte) : mul mlo (dbl mlo a) b = dbl mlo (mul mlo a b) := by
  refine XorLinear.ext (xorLinear_mul mlo _) ((xorLinear_dbl mlo).comp (xorLinear_mul mlo a)) (fun i hi => ?_) b
  rw [mul_bit mlo _ hi, mul_bit mlo _ hi, ← Function.iterate_succ_apply, Function.iterate_succ_apply']

/-- A linear map that commutes with the doubling is the product with its value at 1. -/
theorem XorLinear.eq_mul {mlo : Byte} {f : Byte → Byte} (hf : XorLinear f) (hd : ∀ x, f (dbl mlo x) = dbl mlo (f x))
    (a : Byte) : f a = mul mlo (f 1) a := by
  refine hf.ext (xorLinear_mul mlo _) (fun i hi => ?_) a
  have hcomm : Function.Semiconj f (dbl mlo) (dbl mlo) := hd
  calc f (1#8 <<< i) = f ((dbl mlo)^[i] 1) := by rw [← mul_bit mlo 1 hi, mul_one_left]
    _ = (dbl mlo)^[i] (f 1) := hcomm.iterate_right i 1
    _ = mul mlo (f 1) (1#8 <<< i) := (mul_bit mlo _ hi).symm

protected theorem mul_comm (mlo a b : Byte) : mul mlo a b = mul mlo b a := by
  have h := XorLinear.eq_mul (f := fun x => mul mlo x b) (fun x y => mul_xor_left mlo x y b)
    (fun x => mul_dbl_left mlo x b) a
  rwa [mul_one_left] at h

protected theorem mul_assoc (mlo a b c : Byte) : mul mlo (mul mlo a b) c = mul mlo a (mul mlo b c) := by
  have h := XorLinear.eq_mul (mlo := mlo) (f := fun x => mul mlo (mul mlo x b) c)
    (fun x y => by simp only [mul_xor_left]) (fun x => by simp only [mul_dbl_left]) a
  rwa [mul_one_left, Machine.mul_comm mlo _ a] at h

theorem mul_one_right (mlo a : Byte) : mul mlo a 1 = a := by
  rw [Machine.mul_comm, mul_one_left]

/-! ### The inverse (41_field.md R82) -/

/-- A byte has one inverse at most, under every modulus (41_field.md section 1). -/
theorem eq_of_mul_eq_one {mlo a b c : Byte} (hb : mul mlo a b = 1) (hc : mul mlo a c = 1) : b = c := by
  calc b = mul mlo (mul mlo a c) b := by rw [hc, mul_one_left]
    _ = mul mlo c (mul mlo a b) := by rw [Machine.mul_comm mlo a c, Machine.mul_assoc]
    _ = c := by rw [hb, mul_one_right]

theorem inv_zero (mlo : Byte) : inv mlo 0 = (0, true) := rfl

/-- The search of `inv` meets every byte that can have product 1: `mul` by 0 is 0. -/
theorem mem_tail_of_mul_eq_one {mlo a b : Byte} (h : mul mlo a b = 1) : b ∈ allBytes.tail := by
  have hb : b ≠ 0 := by
    rintro rfl
    rw [mul_zero_right] at h
    exact absurd h (by decide)
  exact (List.mem_cons.mp (mem_allBytes b : b ∈ 0 :: allBytes.tail)).resolve_left hb

theorem inv_eq_of_mul_eq_one {mlo a b : Byte} (h : mul mlo a b = 1) : inv mlo a = (b, true) := by
  have ha : a ≠ 0 := by
    rintro rfl
    rw [mul_zero_left] at h
    exact absurd h (by decide)
  rw [inv, if_neg ha]
  cases hfind : allBytes.tail.find? fun b => mul mlo a b == 1 with
  | none => exact absurd (beq_iff_eq.mpr h) (List.find?_eq_none.mp hfind b (mem_tail_of_mul_eq_one h))
  | some c =>
    have hc : mul mlo a c = 1 := by simpa using List.find?_some hfind
    rw [eq_of_mul_eq_one h hc]

theorem inv_of_forall_mul_ne_one {mlo a : Byte} (ha : a ≠ 0) (h : ∀ b, mul mlo a b ≠ 1) : inv mlo a = (0, false) := by
  rw [inv, if_neg ha, List.find?_eq_none.mpr fun b _ => by simpa using h b]

end Sys2Proof.Machine

end

section
/-! PROOFS. The S-box generator (43_sbox.md): SBUILD and the AES S-box, and what `valid` says of a table. -/

namespace Sys2Proof.Machine

/-! ### SBUILD (43_sbox.md R94, R97) -/

/-- SBUILD on a byte operand: the table, CONST and SVALID are written, and the completion ends. -/
theorem exec_sbuild {s : State} {c : Byte} (hc : s.opa = c.setWidth 32) :
    exec .sbuild s = .next (finish (installTable c s)) := by
  rw [exec_of_byte_operand rfl hc, bodyOf, operandA_setWidth hc]

/-- Entry 0 of a built table is its constant. -/
theorem at_build_zero (mlo seed c : Byte) : Indexed.at (build mlo seed c) 0 = c := by
  rw [at_build, inv_zero, aff_zero_input]

/-- The entry of a byte with no inverse is the constant: `inv` answers 0 for it. -/
theorem at_build_of_forall_mul_ne_one {mlo x : Byte} (h : ∀ b, mul mlo x b ≠ 1) (seed c : Byte) :
    Indexed.at (build mlo seed c) x = c := by
  by_cases hx : x = 0
  · rw [hx, at_build_zero]
  · rw [at_build, inv_of_forall_mul_ne_one hx h, aff_zero_input]

/-! ### The AES S-box (95_test_vectors.md V-S1) -/

/-- The list of V-S1 as a table. -/
def aesTable : Table := ⟨⟨aesSbox⟩, by decide +kernel⟩

/-- The preimage under the AES affine transform: the byte that `aff` takes to `y` under the seed 0xF1 and the constant 0x63. -/
def aesPreimage (y : Byte) : Byte := rotl8 y 1 ^^^ rotl8 y 3 ^^^ rotl8 y 6 ^^^ 0x05

/-- The affine transform takes the preimage back, checked on each of the 256 bytes. -/
theorem aff_aesPreimage (y : Byte) : aff 0xF1 (aesPreimage y) 0x63 = y := by
  revert y
  decide +kernel

/-- An entry of V-S1, taken back through the affine transform, is an inverse of its index: one product for each of the 255
nonzero bytes, where running `inv` would search. -/
theorem mul_aesPreimage_eq_one : ∀ x : Byte, x ≠ 0 → mul 0x1B x (aesPreimage (Indexed.at aesTable x)) = 1 := by
  decide +kernel

theorem inv_eq_aesPreimage (x : Byte) : (inv 0x1B x).1 = aesPreimage (Indexed.at aesTable x) := by
  by_cases hx : x = 0
  · rw [hx, inv_zero]
    decide
  · rw [inv_eq_of_mul_eq_one (mul_aesPreimage_eq_one x hx)]

theorem build_aes : build 0x1B 0xF1 0x63 = aesTable :=
  Indexed.ext_at fun x => by rw [at_build, inv_eq_aesPreimage, aff_aesPreimage]

/-- Settles O23: SBUILD's completion is one write of the table, CONST and SVALID and the end of a completion; where `inv`
answers 0 the constant is left; and V-S1 holds the affine transforms of the inverses, which are unique. -/
theorem sbuildBuildsTheTable : Obligations.SbuildBuildsTheTable := by
  unfold Obligations.SbuildBuildsTheTable
  refine ⟨(decode_eq_ok_iff _ _).mpr ⟨by decide, rfl⟩,
    fun s c hc => ⟨build s.mlo s.seed c, ?_, at_build s.mlo s.seed c⟩,
    fun mlo seed => at_build_zero mlo seed 0, fun mlo seed c x h => at_build_of_forall_mul_ne_one h seed c, ?_⟩
  · rw [exec_sbuild hc]
    rfl
  · rw [build_aes]
    rfl

/-! ### What `valid` says (43_sbox.md R95; 44_metrics.md R105, R117) -/

/-- A count over `allBytes` is the number of bytes with the property: every byte is listed, and listed once. -/
theorem countP_allBytes (p : Byte → Bool) : allBytes.countP p = (Finset.univ.filter fun x => p x = true).card := by
  have huniv : (Finset.univ : Finset Byte) = allBytes.toFinset :=
    (Finset.eq_univ_iff_forall.mpr fun x => List.mem_toFinset.mpr (mem_allBytes x)).symm
  rw [huniv, ← List.toFinset_filter, List.toFinset_card_of_nodup (allBytes_nodup.filter _),
    List.countP_eq_length_filter]

theorem card_byte : Fintype.card Byte = 256 := by
  calc Fintype.card Byte = (Finset.univ.filter fun _ : Byte => true = true).card := by
        rw [Finset.filter_true_of_mem fun _ _ => rfl, Finset.card_univ]
    _ = allBytes.countP fun _ => true := (countP_allBytes _).symm
    _ = 256 := by rw [List.countP_true, allBytes_length]

/-- The distinct outputs are the image's elements (44_metrics.md R105). -/
theorem distinctOutputs_eq_card_image (u : Table) :
    distinctOutputs u = (Finset.univ.image (Indexed.at u)).card := by
  have hany (y : Byte) :
      (allBytes.any fun x => Indexed.at u x == y) = true ↔ y ∈ Finset.univ.image (Indexed.at u) := by
    simp [mem_allBytes]
  simp only [distinctOutputs, countP_allBytes, hany, Finset.filter_univ_mem]

/-- The fixed points, counted as a set (44_metrics.md R117). -/
theorem fixedPoints_eq_card (u : Table) :
    fixedPoints u = (Finset.univ.filter fun x => Indexed.at u x = x).card := by
  rw [fixedPoints, countP_allBytes]
  simp only [beq_iff_eq]

/-- 256 distinct outputs are all the bytes, and a map of a finite type onto itself is one-to-one. -/
theorem distinctOutputs_eq_256_iff (u : Table) : distinctOutputs u = 256 ↔ Function.Bijective (Indexed.at u) := by
  rw [distinctOutputs_eq_card_image, ← card_byte, Finset.card_eq_iff_eq_univ, ← Finset.coe_eq_univ, Finset.coe_image,
    Finset.coe_univ, Set.image_univ, Set.range_eq_univ]
  exact ⟨fun h => ⟨Finite.injective_iff_surjective.mpr h, h⟩, And.right⟩

/-- `valid(U)` (43_sbox.md R95). -/
theorem validSbox_iff (u : Table) :
    validSbox u = true ↔ Function.Bijective (Indexed.at u) ∧ ∀ x, Indexed.at u x ≠ x := by
  rw [validSbox, Bool.and_eq_true, beq_iff_eq, distinctOutputs_eq_256_iff]
  simp [mem_allBytes]

/-- Settles O24: counts over the list of all bytes are cardinalities, and BIJ and FP are the two counts `valid` speaks of. -/
theorem validMeansBijectionWithoutFixedPoint : Obligations.ValidMeansBijectionWithoutFixedPoint := by
  unfold Obligations.ValidMeansBijectionWithoutFixedPoint
  exact fun u => ⟨validSbox_iff u, distinctOutputs_eq_card_image u, fixedPoints_eq_card u⟩

end Sys2Proof.Machine

end

section
/-! PROOFS. Errors, acknowledge and interrupt (60_exceptions.md). -/

namespace Sys2Proof.Machine

/-! ### Oversized byte operands (60_exceptions.md R139) -/

/-- A completion whose operand check fails writes ERR, BUSY and DONE alone. -/
theorem exec_of_not_operandsOk {i : Instr} {s : State} (h : operandsOk (form i) s = false) :
    exec i s = .next { s with err := 2, busy := false, done := true } := by
  rw [exec_eq_complete, complete_bad h]
  rfl

/-- The forms B and BB check OPA (30_encoding.md R60). -/
theorem operandsOk_of_oversized_opa {f : Form} {s : State} (hf : f = .b ∨ f = .bb) (ha : 256 ≤ s.opa.toNat) :
    operandsOk f s = false := by
  obtain rfl | rfl := hf
  · exact byteOperand_of_le ha
  · rw [operandsOk, byteOperand_of_le ha, Bool.false_and]

/-- The form BB checks OPB too (30_encoding.md R60). -/
theorem operandsOk_of_oversized_opb {s : State} (hb : 256 ≤ s.opb.toNat) : operandsOk .bb s = false := by
  rw [operandsOk, byteOperand_of_le hb, Bool.and_false]

/-- Settles O8: the form of each of these commands checks the operand, and a failed check ends the command with ERR = 2 in
place of its body. -/
theorem oversizedByteOperandReportsOperand : Obligations.OversizedByteOperandReportsOperand := by
  unfold Obligations.OversizedByteOperandReportsOperand
  have hform : ∀ i ∈ [Instr.ginv, .gdbl, .sbuild, .slookup, .ctl2, .ctl3, .gmul, .affine],
      form i = .b ∨ form i = .bb := by decide
  have hformBB : ∀ i ∈ [Instr.gmul, .affine], form i = .bb := by decide
  refine ⟨fun i hi s ha => ?_, fun i hi s hb => ?_⟩
  · exact exec_of_not_operandsOk (operandsOk_of_oversized_opa (hform i hi) ha)
  · exact exec_of_not_operandsOk (by rw [hformBB i hi, operandsOk_of_oversized_opb hb])

/-! ### Dropped writes (60_exceptions.md R143, R144) -/

/-- A served write to an RWB or RWL register while BUSY = 1 is dropped with BUSYERR. -/
theorem memWrite_guarded_of_busy {off : Offset} {r : Reg} {s : State} (w : Word) (hs : served off 4 = true)
    (hr : regAt off = r) (hguard : writeAccess r = .rwb ∨ writeAccess r = .rwl) (hb : s.busy = true) :
    memWrite off 4 w s = (.okay, setBusyerr s) := by
  rw [memWrite_eq_writeReg w s hs hr]
  obtain hrwb | hrwl := hguard
  · simp only [writeReg, hrwb, hb, if_true]
  · rw [writeReg_rwl_of_busy w hrwl hb]

/-- The aligned offsets from 0x100 on are the words of the S-box window (20_memory.md R43, R50). -/
theorem regAt_sbox {off : Offset} {k : Fin 64} (h : off.toNat = 0x100 + 4 * k.val) : regAt off = .sbox k := by
  have hword : off.toNat / 4 * 4 = off.toNat := by omega
  have hsbox : 0x100 ≤ off.toNat ∧ off.toNat < 0x200 := by omega
  have hindex : (off.toNat - 0x100) / 4 = k.val := by omega
  unfold regAt
  rw [hword]
  split
  case h_21 =>
    rw [dif_pos hsbox]
    exact congrArg Reg.sbox (Fin.ext hindex)
  all_goals omega

/-- Settles O39: CMD has its own BUSY branch; OPA and OPB are RWB, MOD and SEED are RWL, and the words of the S-box window are
RWB. -/
theorem writesWhileBusySetBusyerr : Obligations.WritesWhileBusySetBusyerr := by
  unfold Obligations.WritesWhileBusySetBusyerr
  refine fun s w hb => ⟨fun hh => ?_, fun off hoff => ?_, fun k hk => ?_⟩
  · rw [memWrite_cmd, cmdWrite_of_busy w hh hb]
    rfl
  · simp only [List.mem_cons, List.not_mem_nil, or_false] at hoff
    obtain rfl | rfl | rfl | rfl := hoff
    · exact memWrite_guarded_of_busy (r := .opa) w rfl rfl (.inl rfl) hb
    · exact memWrite_guarded_of_busy (r := .opb) w rfl rfl (.inl rfl) hb
    · exact memWrite_guarded_of_busy (r := .mod) w rfl rfl (.inr rfl) hb
    · exact memWrite_guarded_of_busy (r := .seed) w rfl rfl (.inr rfl) hb
  · have hnat : (BitVec.ofNat 12 (0x100 + 4 * k)).toNat = 0x100 + 4 * k := by
      rw [BitVec.toNat_ofNat]
      omega
    have hs : served (BitVec.ofNat 12 (0x100 + 4 * k)) 4 = true := (served_iff _ 4).mpr ⟨rfl, by omega⟩
    have hr : regAt (BitVec.ofNat 12 (0x100 + 4 * k)) = .sbox ⟨k, hk⟩ := regAt_sbox hnat
    exact memWrite_guarded_of_busy w hs hr (.inl rfl) hb

/-- Settles O40: MOD and SEED are the RWL registers. -/
theorem lockedConfigurationWritesSetCfgerr : Obligations.LockedConfigurationWritesSetCfgerr := by
  unfold Obligations.LockedConfigurationWritesSetCfgerr
  refine fun s w hb hl => ⟨?_, ?_⟩
  · rw [memWrite_mod, writeReg_rwl_of_lock w rfl hb hl]
    rfl
  · rw [memWrite_eq_writeReg (r := .seed) w s rfl rfl, writeReg_rwl_of_lock w rfl hb hl]
    rfl

/-! ### The flags under a host's write (10_state.md R19) -/

/-! The store of a host's word writes no flag. -/

@[simp] theorem storeReg_done (r : Reg) (w : Word) (s : State) : (storeReg r w s).done = s.done := by
  cases r <;> rfl

@[simp] theorem storeReg_busyerr (r : Reg) (w : Word) (s : State) : (storeReg r w s).busyerr = s.busyerr := by
  cases r <;> rfl

@[simp] theorem storeReg_cfgerr (r : Reg) (w : Word) (s : State) : (storeReg r w s).cfgerr = s.cfgerr := by
  cases r <;> rfl

/-- A sticky flag that is set in s is set in t (10_state.md R23). -/
structure StickyKept (s t : State) : Prop where
  busyerr : s.busyerr = true → t.busyerr = true
  cfgerr : s.cfgerr = true → t.cfgerr = true

/-- An operation that writes no sticky flag keeps both. -/
theorem StickyKept.of_eq {s t : State} (hb : t.busyerr = s.busyerr) (hc : t.cfgerr = s.cfgerr) : StickyKept s t :=
  ⟨fun h => hb.trans h, fun h => hc.trans h⟩

theorem stickyKept_setBusyerr (s : State) : StickyKept s (setBusyerr s) := ⟨fun _ => rfl, id⟩

theorem stickyKept_setCfgerr (s : State) : StickyKept s (setCfgerr s) := ⟨id, fun _ => rfl⟩

/-- A CMD write may set BUSYERR and clears no sticky flag. -/
theorem stickyKept_cmdWrite (w : Word) (s : State) : StickyKept s (cmdWrite w s) := by
  obtain ⟨-, he⟩ | ⟨-, -, he⟩ | ⟨-, -, he⟩ := cmdWrite_cases w s <;> rw [he]
  · exact .of_eq rfl rfl
  · exact stickyKept_setBusyerr s
  · exact .of_eq rfl rfl

/-- Only a CTRL write clears a sticky flag (60_exceptions.md R148). -/
theorem stickyKept_writeReg {r : Reg} (w : Word) (s : State) (hr : writeAccess r ≠ .ctrl) :
    StickyKept s (writeReg r w s) := by
  obtain he | ⟨hctrl, -⟩ | he | ⟨-, he⟩ | ⟨-, -, he⟩ | ⟨-, -, he⟩ | ⟨-, -, he⟩ := writeReg_cases r w s
  · rw [he]; exact .of_eq rfl rfl
  · exact absurd hctrl hr
  · rw [he]; exact stickyKept_cmdWrite w s
  · rw [he]; exact stickyKept_setBusyerr s
  · rw [he]; exact stickyKept_setCfgerr s
  · rw [he]; exact .of_eq (storeReg_busyerr r w s) (storeReg_cfgerr r w s)
  · rw [he]; exact .of_eq (storeReg_busyerr r w s) (storeReg_cfgerr r w s)

/-- A write away from CTRL's offset clears no sticky flag. -/
theorem stickyKept_memWrite {off : Offset} (n : Nat) (w : Word) (s : State) (hoff : off ≠ 0x004) :
    StickyKept s (memWrite off n w s).2 := by
  cases hs : served off n
  · rw [memWrite_unserved hs]; exact .of_eq rfl rfl
  · rw [memWrite_served hs]; exact stickyKept_writeReg w s fun hr => hoff (regAt_ctrl hs hr)

/-! ### The flags under the engine's turn (40_command.md R71) -/

/-- The engine's turn with a command pending ends with `finish`, and what came before it wrote neither IE nor a sticky flag. -/
theorem engineTurn_eq_finish {s t : State} (hb : s.busy = true) (h : engineTurn s = .next t) :
    ∃ u, t = finish u ∧ u.ie = s.ie ∧ u.busyerr = s.busyerr ∧ u.cfgerr = s.cfgerr := by
  obtain ⟨hidle, -⟩ | ⟨-, rfl⟩ | ⟨i, -, -, hexec⟩ := engineTurn_cases h
  · cases hb.symm.trans hidle
  · exact ⟨_, rfl, rfl, rfl, rfl⟩
  · rw [exec_eq_complete] at hexec
    obtain ⟨-, rfl⟩ | ⟨-, rfl⟩ := complete_cases hexec
    · obtain ⟨-, -, -, -, -, hie, -, hberr, hcerr, -⟩ := bodyOf_frame i s
      exact ⟨_, rfl, hie, hberr, hcerr⟩
    · exact ⟨_, rfl, rfl, rfl, rfl⟩

/-- The engine's turn with no command pending does nothing. -/
theorem engineTurn_of_idle {s : State} (hb : s.busy = false) : engineTurn s = .next s := by
  simp only [engineTurn, hb, Bool.false_eq_true, if_false]

/-- The engine's turn writes no sticky flag. -/
theorem engineTurn_sticky {s t : State} (h : engineTurn s = .next t) :
    t.busyerr = s.busyerr ∧ t.cfgerr = s.cfgerr := by
  cases hb : s.busy
  · rw [engineTurn_of_idle hb] at h
    cases h
    exact ⟨rfl, rfl⟩
  · obtain ⟨u, rfl, -, hberr, hcerr⟩ := engineTurn_eq_finish hb h
    exact ⟨hberr, hcerr⟩

/-! ### The acknowledge (60_exceptions.md R148) -/

/-- A CTRL write with ACK and without SRST acknowledges and stores IE. -/
theorem memWrite_ctrl_ack {w : Word} (s : State) (hsrst : w.getLsbD 0 = false) (hack : w.getLsbD 1 = true) :
    memWrite 0x004 4 w s = (.okay, acknowledge (setIe (w.getLsbD 2) s)) := by
  rw [memWrite_ctrl]
  simp only [ctrlWrite, hsrst, hack, Bool.false_eq_true, if_false, if_true]

/-- While a command is pending DONE and ERR are 0 already, so the acknowledge clears the sticky flags alone. -/
theorem acknowledge_of_busy {s : State} (hs : s.FlagsConsistent) (hb : s.busy = true) :
    acknowledge s = { s with busyerr := false, cfgerr := false } := by
  obtain ⟨hdone, -, herr, -⟩ := hs
  have hd : s.done = false := hdone hb
  have he : s.err = 0 := herr hb
  rw [acknowledge, he, ite_self, ← he, ← hd]

/-- Settles O41: the acknowledge as the CTRL write states it, and as it is while a command is pending; an acceptance clears
ERR; away from CTRL no write clears a sticky flag, and the engine's turn writes none. -/
theorem ackClearsFlags : Obligations.AckClearsFlags := by
  unfold Obligations.AckClearsFlags
  refine ⟨fun s w hsrst hack => ?_, fun s w hsrst hack hs hb => ?_, fun s w hb hh => ?_, fun s off n w hoff => ?_,
    fun s t => engineTurn_sticky⟩
  · rw [memWrite_ctrl_ack s hsrst hack]
    rfl
  · rw [memWrite_ctrl_ack s hsrst hack, acknowledge_of_busy (s := setIe (w.getLsbD 2) s) hs hb]
    rfl
  · rw [memWrite_cmd, cmdWrite_of_idle w hb hh, accept_err]
  · obtain ⟨hbusyerr, hcfgerr⟩ := stickyKept_memWrite n w s hoff
    exact ⟨hbusyerr, hcfgerr⟩

/-! ### No transaction sets DONE (60_exceptions.md R149) -/

/-- A read keeps DONE. -/
theorem readReg_done (r : Reg) (s : State) : (readReg r s).2.done = s.done := by
  obtain he | ⟨-, -, he⟩ := readReg_state r s <;> rw [he]
  rfl

theorem memRead_done (off : Offset) (n : Nat) (s : State) : (memRead off n s).2.done = s.done := by
  cases hs : served off n
  · rw [memRead_unserved hs]
  · rw [memRead_served hs]; exact readReg_done (regAt off) s

section
variable {s : State} (hd : s.done = false)
include hd

/-- An acceptance clears DONE and the other branches of a CMD write keep it. -/
theorem cmdWrite_done_eq_false (w : Word) : (cmdWrite w s).done = false := by
  obtain ⟨-, he⟩ | ⟨-, -, he⟩ | ⟨-, -, he⟩ := cmdWrite_cases w s <;> rw [he]
  · exact hd
  · exact hd
  · exact accept_done w s

/-- A reset and the acknowledge clear DONE, and a write of IE keeps it. -/
theorem ctrlWrite_done_eq_false (w : Word) : (ctrlWrite w s).done = false := by
  obtain ⟨-, he⟩ | ⟨-, -, he⟩ | ⟨-, -, he⟩ := ctrlWrite_cases w s <;> rw [he]
  · exact resetBlock_done s
  · exact acknowledge_done _
  · exact hd

theorem writeReg_done_eq_false (r : Reg) (w : Word) : (writeReg r w s).done = false := by
  obtain he | ⟨-, he⟩ | he | ⟨-, he⟩ | ⟨-, -, he⟩ | ⟨-, -, he⟩ | ⟨-, -, he⟩ := writeReg_cases r w s <;> rw [he]
  · exact hd
  · exact ctrlWrite_done_eq_false hd w
  · exact cmdWrite_done_eq_false hd w
  · exact hd
  · exact hd
  · rw [storeReg_done, hd]
  · rw [storeReg_done, hd]

theorem memWrite_done_eq_false (off : Offset) (n : Nat) (w : Word) : (memWrite off n w s).2.done = false := by
  cases hs : served off n
  · rw [memWrite_unserved hs]; exact hd
  · rw [memWrite_served hs]; exact writeReg_done_eq_false hd (regAt off) w

/-- No turn of the host sets DONE: a turn is a transaction or leaves the block as it is. -/
theorem hostTurn_done_eq_false {t : State} (h : hostTurn s = .next t) : t.done = false := by
  obtain rfl | ⟨_, rfl⟩ | ⟨_, _, rfl⟩ | ⟨_, _, -, rfl⟩ | ⟨off, n, w, rest, -, -, rfl⟩ := hostTurn_cases h
  · exact hd
  · exact hd
  · exact hd
  · exact hd
  · rw [setHost_done, record_done]; exact writeReg_done_eq_false hd (regAt off) w

end

/-! ### The interrupt output (60_exceptions.md R149) -/

/-- DONE is bit 1 of STATUS (10_state.md R19). -/
theorem statusWord_getLsbD_one (s : State) : (statusWord s).getLsbD 1 = s.done := by
  simp only [statusWord, flagBit, BitVec.getLsbD_append]
  simp

/-- IE is bit 2 of CTRL (10_state.md R18). -/
theorem ctrlWord_getLsbD_two (s : State) : (ctrlWord s).getLsbD 2 = s.ie := by
  simp only [ctrlWord, flagBit, BitVec.getLsbD_append]
  simp

theorem irq_of_done_eq_false {s : State} (h : s.done = false) : irq s = false := by
  rw [irq, h, Bool.false_and]

theorem irq_of_ie_eq_false {s : State} (h : s.ie = false) : irq s = false := by
  rw [irq, h, Bool.and_false]

/-- A completion raises irq where IE = 1. -/
theorem irq_of_engineTurn {s t : State} (hb : s.busy = true) (h : engineTurn s = .next t) : irq t = s.ie := by
  obtain ⟨u, rfl, hie, -⟩ := engineTurn_eq_finish hb h
  rw [irq, finish_done, finish_ie, hie, Bool.true_and]

/-- A CTRL write that resets, acknowledges or writes IE = 0 clears irq. -/
theorem irq_ctrlWrite {w : Word} (s : State)
    (hw : w.getLsbD 0 = true ∨ w.getLsbD 1 = true ∨ w.getLsbD 2 = false) : irq (ctrlWrite w s) = false := by
  obtain ⟨-, he⟩ | ⟨-, -, he⟩ | ⟨hsrst, hack, he⟩ := ctrlWrite_cases w s <;> rw [he]
  · exact irq_of_done_eq_false (resetBlock_done s)
  · exact irq_of_done_eq_false (acknowledge_done _)
  · rw [hsrst, hack] at hw
    exact irq_of_ie_eq_false (by simpa using hw)

/-- Settles O42: the two bits are DONE and IE; the end of a completion sets DONE and nothing else does, and what clears irq
clears one of the two. -/
theorem interruptFollowsDoneAndEnable : Obligations.InterruptFollowsDoneAndEnable := by
  unfold Obligations.InterruptFollowsDoneAndEnable
  refine ⟨fun s => ?_, fun s t => irq_of_engineTurn, fun s off n w hd => ?_, fun s t hd h => ?_, fun s t hb h => ?_,
    fun s w hsrst hack => ?_, fun s w hw => ?_, fun s w hb hh => ?_, fun s t h => ?_⟩
  · rw [regValue, regValue, statusWord_getLsbD_one, ctrlWord_getLsbD_two, irq, Bool.and_eq_true]
  · exact ⟨(memRead_done off n s).trans hd, memWrite_done_eq_false hd off n w⟩
  · exact ⟨hostTurn_done_eq_false hd h, irq_of_done_eq_false (hostTurn_done_eq_false hd h)⟩
  · rw [engineTurn_of_idle hb] at h
    cases h
    rfl
  · rw [memWrite_ctrl]
    simp only [ctrlWrite, hsrst, hack, Bool.false_eq_true, if_false]
    rfl
  · rw [memWrite_ctrl]
    exact irq_ctrlWrite s hw
  · rw [memWrite_cmd, cmdWrite_of_idle w hb hh]
    exact irq_of_done_eq_false (accept_done w s)
  · cases h
    exact irq_of_done_eq_false (resetBlock_done s)

end Sys2Proof.Machine

end

section
/-! PROOFS. Encoding (30_encoding.md): decoding inverts encoding. -/

namespace Sys2Proof

/-- The opcode map and the encoder's table name the same OPC value for each command (30_encoding.md R61). -/
theorem decodeOpcode_eq_some_iff (opc : Byte) (i : Instr) : decodeOpcode opc = some i ↔ opc = opcode i := by
  refine ⟨?_, fun h => by subst h; cases i <;> rfl⟩
  have hmap : ∀ opc : Byte, ∀ i ∈ decodeOpcode opc, opc = opcode i := by decide +kernel
  exact hmap opc i

/-- A word below 256 is the zero extension of its low byte. -/
theorem eq_setWidth_iff (w : Word) (v : Byte) : w = v.setWidth 32 ↔ w.toNat < 0x100 ∧ w.setWidth 8 = v := by
  have hv := v.isLt
  simp only [← BitVec.toNat_inj, BitVec.toNat_setWidth]
  omega

/-- Settles O1: both sides say that RSV = 0 and that the low byte is the command's OPC. -/
theorem decodeInvertsEncode : Obligations.DecodeInvertsEncode := by
  unfold Obligations.DecodeInvertsEncode
  intro w i
  rw [decode_eq_ok_iff, decodeOpcode_eq_some_iff, encode, eq_setWidth_iff]

/-- A command's encoding decodes to it. -/
theorem decode_encode (i : Instr) : decode (encode i) = .ok i := (decodeInvertsEncode _ i).mpr rfl

/-- Settles O4: six of the words are encodings; the last two have an undefined OPC and a nonzero RSV. -/
theorem wordsOfTheOpcodeMapDecode : Obligations.WordsOfTheOpcodeMapDecode :=
  ⟨decode_encode .nop, decode_encode .gmul, decode_encode .affine, decode_encode .ssearch, decode_encode .mall,
    decode_encode .mixchk, by decide, by decide⟩

end Sys2Proof

end

section
/-! PROOFS. The masked scan and MixColumns (45_mixcolumns.md): both forms of MixColumns, lane by lane. -/

namespace Sys2Proof.Machine

/-! ### The masked scan (45_mixcolumns.md R122) -/

/-- The scan of a list without repetitions adds the entry of `idx` when it meets `idx`, and nothing else. -/
theorem foldl_masked_eq (tab : Table) (idx : Byte) {l : List Byte} (hl : l.Nodup) (r : Byte) :
    l.foldl (fun r i => r ^^^ (Indexed.at tab i &&& (if i = idx then 0xFF else 0x00))) r =
      if idx ∈ l then r ^^^ Indexed.at tab idx else r := by
  induction l generalizing r with
  | nil => rfl
  | cons i l ih =>
    obtain ⟨hi, hl⟩ := List.nodup_cons.mp hl
    have hff : Indexed.at tab i &&& 0xFF = Indexed.at tab i := BitVec.and_allOnes
    rw [List.foldl_cons, ih hl]
    by_cases h : i = idx
    · subst h
      rw [if_pos rfl, hff, if_neg hi, if_pos List.mem_cons_self]
    · simp [h, Ne.symm h]

/-- Settles O28: every index is scanned, and scanned once. -/
theorem maskedScanIsIndexing : Obligations.MaskedScanIsIndexing := by
  unfold Obligations.MaskedScanIsIndexing
  intro tab idx
  rw [ctLookup, foldl_masked_eq tab idx allBytes_nodup, if_pos (mem_allBytes idx)]
  exact BitVec.zero_xor

/-- The same as a rewriting rule. -/
@[simp] theorem ctLookup_eq_at (tab : Table) (idx : Byte) : ctLookup tab idx = Indexed.at tab idx :=
  maskedScanIsIndexing tab idx

/-! ### The double and the triple (45_mixcolumns.md R121) -/

theorem mul_two_right (mlo a : Byte) : mul mlo a 2 = dbl mlo a := mul_bit (j := 1) mlo a (by decide)

theorem mul_two_left (mlo a : Byte) : mul mlo 2 a = dbl mlo a := by
  rw [Machine.mul_comm, mul_two_right]

theorem mul_three_right (mlo a : Byte) : mul mlo a 3 = dbl mlo a ^^^ a := by
  have h3 : (3 : Byte) = 2 ^^^ 1 := rfl
  rw [h3, mul_xor_right, mul_two_right, mul_one_right]

theorem mul_three_left (mlo a : Byte) : mul mlo 3 a = dbl mlo a ^^^ a := by
  rw [Machine.mul_comm, mul_three_right]

/-- Settles O29: the scan is indexing, and the entries of the two tables are the products by 2 and 3. -/
theorem lookupCommandsWriteTheEntry : Obligations.LookupCommandsWriteTheEntry := by
  unfold Obligations.LookupCommandsWriteTheEntry
  intro s a ha
  have hbyte {i : Instr} (hi : form i = .b) := exec_of_byte_operand hi ha
  refine ⟨?_, ?_, ?_, ?_⟩
  · rw [hbyte rfl, bodyOf, operandA_setWidth ha, ctLookup_eq_at]
    rfl
  · rw [hbyte rfl, bodyOf, operandA_setWidth ha, ctLookup_eq_at, at_mul2, mul_two_right]
    rfl
  · rw [hbyte rfl, bodyOf, operandA_setWidth ha, ctLookup_eq_at, at_mul3, mul_three_right]
    rfl
  · rw [hbyte rfl, exec_gdbl ha, bodyOf, operandA_setWidth ha, ctLookup_eq_at, at_mul2]

/-! ### Lanes (00_scope.md R8, R9) -/

/-- A bit of a lane. -/
theorem getLsbD_lane (i : Nat) (w : Word) {j : Nat} (hj : j < 8) : (lane i w).getLsbD j = w.getLsbD (8 * i + j) := by
  simp [lane, hj]

/-- Two words with the same four lanes are the same. -/
theorem eq_of_lanes {v w : Word} (h : ∀ i < 4, lane i v = lane i w) : v = w := by
  refine BitVec.eq_of_getLsbD_eq fun k hk => ?_
  have hbit := congrArg (fun b => b.getLsbD (k % 8)) (h (k / 8) (by omega))
  simpa only [getLsbD_lane _ _ (Nat.mod_lt k (by decide : 8 > 0)), Nat.div_add_mod] using hbit

@[simp] theorem lane_xor (i : Nat) (v w : Word) : lane i (v ^^^ w) = lane i v ^^^ lane i w := by
  simp [lane, BitVec.extractLsb'_xor]

/-- A bit of a packed word. -/
theorem getLsbD_pack (b0 b1 b2 b3 : Byte) (k : Nat) : (pack b0 b1 b2 b3).getLsbD k =
    if k < 8 then b0.getLsbD k else if k < 16 then b1.getLsbD (k - 8) else if k < 24 then b2.getLsbD (k - 16)
    else b3.getLsbD (k - 24) := by
  simp only [pack, BitVec.getLsbD_append]
  grind

theorem lane_pack (f : Nat → Byte) {i : Nat} (hi : i < 4) : lane i (pack (f 0) (f 1) (f 2) (f 3)) = f i := by
  refine BitVec.eq_of_getLsbD_eq fun j hj => ?_
  rw [getLsbD_lane _ _ hj, getLsbD_pack]
  interval_cases i <;> grind

/-! ### `xtime4` and `rotb` (45_mixcolumns.md R128, R130) -/

/-- A packed word of four bits, times a byte, has that byte in each lane whose bit is 1: no carry leaves a lane. -/
theorem pack_mul_setWidth : ∀ (c0 c1 c2 c3 : Bool) (m : Byte),
    pack (if c0 then 1 else 0) (if c1 then 1 else 0) (if c2 then 1 else 0) (if c3 then 1 else 0) * m.setWidth 32 =
      pack (if c0 then m else 0) (if c1 then m else 0) (if c2 then m else 0) (if c3 then m else 0) := by
  decide +kernel

/-- The mask of the lanes' lowest bits. -/
theorem getLsbD_lowBits : ∀ k < 32, (0x01010101 : Word).getLsbD k = (k % 8 == 0) := by decide

/-- The mask of the lanes' lower seven bits. -/
theorem getLsbD_lowSevens : ∀ k < 32, (0x7F7F7F7F : Word).getLsbD k = (k % 8 != 7) := by decide

/-- The top bit of each lane, moved to the lane's lowest bit. -/
theorem topBits_eq_pack (w : Word) : (w >>> 7) &&& 0x01010101 =
    pack (if (lane 0 w).getLsbD 7 then 1 else 0) (if (lane 1 w).getLsbD 7 then 1 else 0)
      (if (lane 2 w).getLsbD 7 then 1 else 0) (if (lane 3 w).getLsbD 7 then 1 else 0) := by
  refine eq_of_lanes fun i hi => BitVec.eq_of_getLsbD_eq fun j hj => ?_
  have hmod : (8 * i + j) % 8 = j := by omega
  rw [lane_pack (fun i => if (lane i w).getLsbD 7 then 1 else 0) hi, getLsbD_lane _ _ hj, BitVec.getLsbD_and,
    getLsbD_lowBits _ (by omega), BitVec.getLsbD_ushiftRight, hmod, getLsbD_lane i w (by decide : 7 < 8)]
  obtain rfl | hpos := Nat.eq_zero_or_pos j
  · rw [Nat.add_zero, Nat.add_comm 7, beq_self_eq_true, Bool.and_true]
    cases w.getLsbD (8 * i + 7) <;> rfl
  · have hj0 : (j == 0) = false := beq_false_of_ne (by omega)
    rw [hj0, Bool.and_false]
    cases w.getLsbD (8 * i + 7) <;> interval_cases j <;> rfl

/-- The lower seven bits of each lane, moved up by one place: the lane's left shift. -/
theorem lane_lowSevens_shiftLeft (w : Word) {i : Nat} (hi : i < 4) :
    lane i ((w &&& 0x7F7F7F7F) <<< 1) = lane i w <<< 1 := by
  refine BitVec.eq_of_getLsbD_eq fun j hj => ?_
  rw [getLsbD_lane _ _ hj, BitVec.getLsbD_shiftLeft, BitVec.getLsbD_shiftLeft, BitVec.getLsbD_and,
    getLsbD_lowSevens _ (by omega), getLsbD_lane i w (by omega)]
  obtain rfl | hpos := Nat.eq_zero_or_pos j
  · have hmask : i = 0 ∨ (8 * i - 1) % 8 = 7 := by omega
    obtain rfl | hmask := hmask
    · rfl
    · simp [hmask]
  · have hplace : 8 * i + j - 1 = 8 * i + (j - 1) := by omega
    have hmask : (j - 1) % 8 ≠ 7 := by omega
    have hj0 : ¬ j < 1 := by omega
    have hk0 : ¬ 8 * i + j < 1 := by omega
    have hk32 : 8 * i + j < 32 := by omega
    simp [hmask, hplace, hj, hj0, hk0, hk32]

/-- Lane i of `xtime4` is the double of lane i. -/
theorem lane_xtime4 (mlo : Byte) (w : Word) {i : Nat} (hi : i < 4) :
    lane i (xtime4 mlo w) = dbl mlo (lane i w) := by
  rw [xtime4, lane_xor, lane_lowSevens_shiftLeft w hi, topBits_eq_pack, pack_mul_setWidth, dbl,
    lane_pack (fun i => if (lane i w).getLsbD 7 then mlo else 0) hi]

/-- Lane i of `rotb` is lane i + 1, around. -/
theorem lane_rotb (w : Word) {i : Nat} (hi : i < 4) : lane i (rotb w) = lane ((i + 1) % 4) w := by
  refine BitVec.eq_of_getLsbD_eq fun j hj => ?_
  rw [getLsbD_lane _ _ hj, getLsbD_lane _ _ hj, rotb, BitVec.getLsbD_or, BitVec.getLsbD_ushiftRight,
    BitVec.getLsbD_shiftLeft]
  obtain rfl | hi3 : i = 3 ∨ i < 3 := by omega
  · have hhigh : w.getLsbD (8 + (8 * 3 + j)) = false := BitVec.getLsbD_of_ge _ _ (by omega)
    have hplace : 8 * 3 + j - 24 = 8 * ((3 + 1) % 4) + j := by omega
    have hk32 : 8 * 3 + j < 32 := by omega
    simp [hhigh, hplace, hk32]
  · have hplace : 8 + (8 * i + j) = 8 * ((i + 1) % 4) + j := by omega
    have hk24 : 8 * i + j < 24 := by omega
    simp [hplace, hk24]

/-- Settles O35: the doubling and the rotation, lane by lane. -/
theorem packedDoublingAndRotationByLanes : Obligations.PackedDoublingAndRotationByLanes := by
  unfold Obligations.PackedDoublingAndRotationByLanes
  exact fun mlo w i hi => ⟨lane_xtime4 mlo w hi, lane_rotb w hi⟩

/-! ### The two forms (45_mixcolumns.md R126, R132) -/

/-- Row r of the circulant matrix (2, 3, 1, 1) on the lanes of `w`, in doubles. -/
def mixRow (mlo : Byte) (w : Word) (r : Nat) : Byte :=
  dbl mlo (lane r w) ^^^ (dbl mlo (lane ((r + 1) % 4) w) ^^^ lane ((r + 1) % 4) w) ^^^ lane ((r + 2) % 4) w ^^^
    lane ((r + 3) % 4) w

/-- Lane r of the table form is row r. -/
theorem lane_mixcolCt (mlo : Byte) (w : Word) {r : Nat} (hr : r < 4) : lane r (mixcolCt mlo w) = mixRow mlo w r := by
  have hrow : mixcolCt mlo w = pack (mixRow mlo w 0) (mixRow mlo w 1) (mixRow mlo w 2) (mixRow mlo w 3) := by
    simp only [mixcolCt, ctLookup_eq_at, at_mul2, at_mul3, mixRow]
    congr 1 <;> simp <;> ac_rfl
  rw [hrow, lane_pack _ hr]

/-- Lane r of the bit-sliced form, in doubles. -/
theorem lane_mixcolBs (mlo : Byte) (w : Word) {r : Nat} (hr : r < 4) : lane r (mixcolBs mlo w) =
    dbl mlo (lane r w ^^^ lane ((r + 1) % 4) w) ^^^ lane ((r + 1) % 4) w ^^^ lane ((r + 2) % 4) w ^^^
      lane ((r + 3) % 4) w := by
  have hmod (n : Nat) : n % 4 < 4 := Nat.mod_lt _ (by decide)
  rw [mixcolBs]
  simp only [lane_xor, lane_xtime4 mlo _ hr, lane_rotb _ hr, lane_rotb _ (hmod _), Nat.mod_add_mod, Nat.add_assoc,
    Nat.reduceAdd]

/-- Settles O36: `mul` by 2 is the double and `mul` by 3 the triple. -/
theorem mixctIsTheMatrixProduct : Obligations.MixctIsTheMatrixProduct := by
  unfold Obligations.MixctIsTheMatrixProduct
  intro mlo w r hr
  rw [lane_mixcolCt mlo w hr, mixRow, mul_two_left, mul_three_left]

/-- Settles O37: the forms differ in that one doubles the sum of two lanes, the other each lane. -/
theorem mixColumnsFormsAgree : Obligations.MixColumnsFormsAgree := by
  unfold Obligations.MixColumnsFormsAgree
  refine fun mlo w => eq_of_lanes fun r hr => ?_
  rw [lane_mixcolBs mlo w hr, lane_mixcolCt mlo w hr, mixRow, dbl_xor]
  ac_rfl

/-! ### The commands (45_mixcolumns.md R127 to R134) -/

/-- A command of form N or W checks no operand: it completes its body (30_encoding.md R60). -/
theorem exec_of_no_check {i : Instr} (hi : form i = .n ∨ form i = .w) (s : State) :
    exec i s = .next (finish (bodyOf i s)) := by
  have hok : operandsOk (form i) s = true := by
    obtain h | h := hi <;> rw [h] <;> rfl
  rw [exec_eq_complete, complete_ok hok]

/-- MIXCHK compares equal results, so it stores them and reports nothing. -/
theorem bodyOf_mixchk (s : State) :
    bodyOf .mixchk s = writeResults (mixcolCt s.mlo s.opa) (mixcolCt s.mlo s.opa) s := by
  rw [bodyOf, mixColumnsFormsAgree, checkEqual, if_pos rfl]

/-- Settles O38: the two forms agree. -/
theorem mixchkNeverDiverges : Obligations.MixchkNeverDiverges := by
  unfold Obligations.MixchkNeverDiverges
  refine ⟨decode_encode .mixchk, fun s => ?_⟩
  rw [exec_of_no_check (.inr rfl), bodyOf_mixchk]
  rfl

/-- Settles O34: each command's body is one write of RES0. The table form of the example is the bit-sliced one, which is
evaluated. -/
theorem mixColumnsCommandsWriteRes0 : Obligations.MixColumnsCommandsWriteRes0 := by
  unfold Obligations.MixColumnsCommandsWriteRes0
  have hexec {i : Instr} (hi : form i = .w) := exec_of_no_check (.inr hi)
  refine ⟨fun s => ⟨hexec rfl s, hexec rfl s, hexec rfl s, hexec rfl s⟩, decode_encode .mixct, decode_encode .xtime4,
    decode_encode .rotb, decode_encode .mixbs, ?_, by decide, by decide, by decide⟩
  rw [← mixColumnsFormsAgree]
  decide

end Sys2Proof.Machine

end

section
/-! PROOFS. The field functions (41_field.md): the ring laws, GINV, and the bytes as polynomials over GF(2). -/

namespace Sys2Proof.Machine

/-! ### The ring laws and GINV (41_field.md section 1, R86) -/

/-- Settles O17: the laws of `mul`, proved one by one; the doubling is the product by x. -/
theorem mulIsACommutativeRing : Obligations.MulIsACommutativeRing := by
  unfold Obligations.MulIsACommutativeRing
  exact fun mlo a b c => ⟨Machine.mul_comm mlo a b, Machine.mul_assoc mlo a b c, mul_xor_right mlo a b c,
    mul_one_right mlo a, mul_zero_right mlo a, (mul_two_right mlo a).symm⟩

/-- GINV on a byte that `inv` gives an answer for: RES0 is the answer. -/
theorem exec_ginv_of_unit {s : State} {a b : Byte} (ha : s.opa = a.setWidth 32) (h : inv s.mlo a = (b, true)) :
    exec .ginv s = .next { s with res0 := b.setWidth 32, busy := false, done := true } := by
  rw [exec_of_byte_operand rfl ha, bodyOf, operandA_setWidth ha, h]
  rfl

/-- GINV on a byte without an inverse: RES0 is 0 and ERR is 4. -/
theorem exec_ginv_of_nonunit {s : State} {a : Byte} (ha : s.opa = a.setWidth 32) (h : inv s.mlo a = (0, false)) :
    exec .ginv s = .next { s with res0 := 0, err := 4, busy := false, done := true } := by
  rw [exec_of_byte_operand rfl ha, bodyOf, operandA_setWidth ha, h]
  rfl

/-- Settles O14: a byte with product 1 is the one that `inv` finds; 0 is answered with 0, and a nonzero byte without an
inverse with the error. -/
theorem ginvWritesInverse : Obligations.GinvWritesInverse := by
  unfold Obligations.GinvWritesInverse
  refine ⟨decode_encode .ginv, fun s a b ha _ h => exec_ginv_of_unit ha (inv_eq_of_mul_eq_one h),
    fun s ha => exec_ginv_of_unit (a := 0) (b := 0) ha (inv_zero s.mlo),
    fun s a ha h0 h => exec_ginv_of_nonunit ha (inv_of_forall_mul_ne_one h0 h),
    fun s ha => exec_ginv_of_unit (a := 1) (b := 1) ha (inv_eq_of_mul_eq_one (mul_one_left s.mlo 1)),
    fun s hm ha => exec_ginv_of_nonunit (a := 2) ha ?_, fun s hm ha => exec_ginv_of_unit (a := 3) (b := 0xFF) ha ?_,
    fun s hm ha => exec_ginv_of_unit (a := 0x53) (b := 0xCA) ha ?_⟩ <;> rw [hm]
  · exact inv_of_forall_mul_ne_one (by decide) (by decide +kernel)
  · exact inv_eq_of_mul_eq_one (by decide)
  · exact inv_eq_of_mul_eq_one (by decide)

/-! ### Words as polynomials over GF(2) (00_scope.md R8) -/

open Polynomial

/-- The polynomial whose coefficients are the bits of a word. -/
noncomputable def wordPoly {n : Nat} (p : BitVec n) : (ZMod 2)[X] :=
  ∑ k ∈ Finset.range n, if p.getLsbD k then X ^ k else 0

theorem bytePoly_eq_wordPoly (a : Byte) : bytePoly a = wordPoly a := rfl

theorem coeff_wordPoly {n : Nat} (p : BitVec n) (k : Nat) : (wordPoly p).coeff k = if p.getLsbD k then 1 else 0 := by
  have hterm (i : Nat) : (if p.getLsbD i then (X : (ZMod 2)[X]) ^ i else 0).coeff k =
      if k = i then (if p.getLsbD i then 1 else 0) else 0 := by
    cases p.getLsbD i <;> simp [coeff_X_pow]
  rw [wordPoly, finsetSum_coeff]
  simp only [hterm, Finset.sum_ite_eq, Finset.mem_range]
  split
  · rfl
  · rw [BitVec.getLsbD_of_ge p k (by omega)]
    rfl

theorem wordPoly_injective {n : Nat} : Function.Injective (wordPoly (n := n)) := by
  intro p q h
  refine BitVec.eq_of_getLsbD_eq fun k _ => ?_
  have hk := congrArg (fun f => f.coeff k) h
  simp only [coeff_wordPoly] at hk
  cases hp : p.getLsbD k <;> cases hq : q.getLsbD k <;> simp_all

theorem degree_wordPoly_lt {n : Nat} (p : BitVec n) : (wordPoly p).degree < n := by
  refine (degree_lt_iff_coeff_zero _ _).mpr fun k hk => ?_
  rw [coeff_wordPoly, BitVec.getLsbD_of_ge p k hk]
  rfl

theorem degree_bytePoly_lt (a : Byte) : (bytePoly a).degree < 8 := degree_wordPoly_lt a

/-- The sum of words (XOR) is the sum of their polynomials. -/
theorem wordPoly_xor {n : Nat} (p q : BitVec n) : wordPoly (p ^^^ q) = wordPoly p + wordPoly q := by
  ext k
  rw [coeff_add, coeff_wordPoly, coeff_wordPoly, coeff_wordPoly, BitVec.getLsbD_xor]
  cases p.getLsbD k <;> cases q.getLsbD k <;> decide

theorem wordPoly_zero {n : Nat} : wordPoly (0 : BitVec n) = 0 := by
  ext k
  rw [coeff_wordPoly]
  simp

/-- A left shift that drops no bit multiplies by a power of x. -/
theorem wordPoly_setWidth_shiftLeft (a : Byte) {i : Nat} (hi : i ≤ 8) :
    wordPoly (a.setWidth 16 <<< i) = bytePoly a * X ^ i := by
  ext k
  rw [bytePoly_eq_wordPoly, coeff_wordPoly, coeff_mul_X_pow', coeff_wordPoly, BitVec.getLsbD_shiftLeft,
    BitVec.getLsbD_setWidth]
  by_cases hik : i ≤ k
  · have hlow : ¬ k < i := by omega
    by_cases hk : k < 16
    · have hk' : k - i < 16 := by omega
      simp [hik, hlow, hk, hk']
    · have hhigh : a.getLsbD (k - i) = false := BitVec.getLsbD_of_ge _ _ (by omega)
      simp [hhigh]
  · have hlow : k < i := by omega
    simp [hik, hlow]

theorem wordPoly_setWidth (a : Byte) : wordPoly (a.setWidth 16) = bytePoly a := by
  simpa using wordPoly_setWidth_shiftLeft a (i := 0) (by decide)

theorem bytePoly_zero : bytePoly 0 = 0 := wordPoly_zero

theorem bytePoly_bit {i : Nat} (hi : i < 8) : bytePoly (1#8 <<< i) = X ^ i := by
  ext k
  rw [bytePoly_eq_wordPoly, coeff_wordPoly, coeff_X_pow, BitVec.getLsbD_shiftLeft, BitVec.getLsbD_one]
  refine if_congr ?_ rfl rfl
  simp
  omega

theorem bytePoly_one : bytePoly 1 = 1 := bytePoly_bit (i := 0) (by decide)

/-- Every polynomial of degree below 8 is a byte's. -/
theorem exists_bytePoly_eq {p : (ZMod 2)[X]} (hp : p.degree < 8) : ∃ b, bytePoly b = p := by
  refine ⟨byteOfBits fun k => p.coeff k == 1, ?_⟩
  ext k
  rw [bytePoly_eq_wordPoly, coeff_wordPoly]
  by_cases hk : k < 8
  · rw [getLsbD_byteOfBits _ _ hk]
    generalize p.coeff k = c
    revert c
    decide
  · rw [BitVec.getLsbD_of_ge _ _ (by omega), (degree_lt_iff_coeff_zero p 8).mp hp k (by omega)]
    rfl

/-- The carry-less product is the product of the polynomials (41_field.md R81, the first loop). -/
theorem wordPoly_clmul (a b : Byte) : wordPoly (clmul a b) = bytePoly a * bytePoly b := by
  have hfold : ∀ (l : List Nat) (p : BitVec 16), (∀ i ∈ l, i < 8) →
      wordPoly (l.foldl (fun p i => if b.getLsbD i then p ^^^ (a.setWidth 16 <<< i) else p) p) =
        wordPoly p + bytePoly a * (l.map fun i => if b.getLsbD i then X ^ i else 0).sum := by
    intro l
    induction l with
    | nil => intro p _; simp
    | cons i l ih =>
      intro p hl
      obtain ⟨hi, hl⟩ := List.forall_mem_cons.mp hl
      rw [List.foldl_cons, ih _ hl, List.map_cons, List.sum_cons]
      cases b.getLsbD i
      · simp
      · rw [if_pos rfl, if_pos rfl, wordPoly_xor, wordPoly_setWidth_shiftLeft a hi.le]
        ring
  have hb : (bitPositions.map fun i => if b.getLsbD i then (X : (ZMod 2)[X]) ^ i else 0).sum = bytePoly b := by
    simp [bitPositions, bytePoly, Finset.sum_range_succ, add_assoc]
  rw [clmul, hfold _ _ (by decide), hb]
  exact (congrArg (· + _) wordPoly_zero).trans (zero_add _)

end Sys2Proof.Machine

end

section
/-! PROOFS. The field functions (41_field.md): `mul` is the product modulo M, the bytes without an inverse, and the
inverse as a power under an irreducible modulus. -/

namespace Sys2Proof.Machine

open Polynomial

/-! ### The modulus (41_field.md R80) -/

theorem monic_modulusPoly (mlo : Byte) : (modulusPoly mlo).Monic :=
  monic_X_pow_add (degree_bytePoly_lt mlo)

theorem degree_modulusPoly (mlo : Byte) : (modulusPoly mlo).degree = 8 := by
  rw [modulusPoly, degree_add_eq_left_of_degree_lt]
  · exact degree_X_pow 8
  · rw [degree_X_pow]
    exact degree_bytePoly_lt mlo

theorem wordPoly_modulus16 (mlo : Byte) : wordPoly (modulus16 mlo) = modulusPoly mlo := by
  have hsplit : modulus16 mlo = (1 : Byte).setWidth 16 <<< 8 ^^^ mlo.setWidth 16 := by
    revert mlo
    decide +kernel
  rw [hsplit, wordPoly_xor, wordPoly_setWidth_shiftLeft 1 le_rfl, wordPoly_setWidth, bytePoly_one, one_mul, modulusPoly]

/-- A byte's polynomial is its own remainder. -/
theorem bytePoly_modByMonic (mlo a : Byte) : bytePoly a %ₘ modulusPoly mlo = bytePoly a :=
  (modByMonic_eq_self_iff (monic_modulusPoly mlo)).mpr (by rw [degree_modulusPoly]; exact degree_bytePoly_lt a)

/-! ### `mul` is the product modulo M (41_field.md section 1) -/

theorem bytePoly_xor (a b : Byte) : bytePoly (a ^^^ b) = bytePoly a + bytePoly b := wordPoly_xor a b

/-- What holds of 0 and the bits, and of sums, holds of every byte. -/
theorem byte_induction {P : Byte → Prop} (zero : P 0) (bit : ∀ i < 8, P (1#8 <<< i))
    (xor : ∀ x y, P x → P y → P (x ^^^ y)) (b : Byte) : P b := by
  have hfold : ∀ (l : List Nat) (y : Byte), (∀ i ∈ l, i < 8) → P y → P (l.foldl (addBit b) y) := by
    intro l
    induction l with
    | nil => exact fun _ _ hy => hy
    | cons i l ih =>
      intro y hl hy
      obtain ⟨hi, hl⟩ := List.forall_mem_cons.mp hl
      refine ih _ hl ?_
      rw [addBit]
      split
      · exact xor _ _ hy (bit i hi)
      · exact hy
  rw [← foldl_addBit_eq b]
  exact hfold bitPositions 0 (by decide) zero

/-- The doubling before its reduction: the shifted byte, with x^8 where the top bit was set. -/
theorem bytePoly_mul_X (a : Byte) : bytePoly a * X = bytePoly (a <<< 1) + if a.getLsbD 7 then X ^ 8 else 0 := by
  have hsplit : a.setWidth 16 <<< 1 =
      (a <<< 1).setWidth 16 ^^^ (if a.getLsbD 7 then (1 : Byte).setWidth 16 <<< 8 else 0) := by
    revert a
    decide +kernel
  calc bytePoly a * X = wordPoly (a.setWidth 16 <<< 1) := by
        rw [wordPoly_setWidth_shiftLeft a (by decide), pow_one]
    _ = bytePoly (a <<< 1) + if a.getLsbD 7 then X ^ 8 else 0 := by
        rw [hsplit, wordPoly_xor, wordPoly_setWidth]
        cases a.getLsbD 7
        · exact congrArg (_ + ·) wordPoly_zero
        · rw [if_pos rfl, if_pos rfl, wordPoly_setWidth_shiftLeft 1 le_rfl, bytePoly_one, one_mul]

/-- The doubling is the product by x modulo M (41_field.md R83). -/
theorem bytePoly_dbl (mlo a : Byte) : bytePoly (dbl mlo a) = (bytePoly a * X) %ₘ modulusPoly mlo := by
  have hx8 : (X : (ZMod 2)[X]) ^ 8 = bytePoly mlo + modulusPoly mlo := by
    rw [modulusPoly, add_left_comm, CharTwo.add_self_eq_zero, add_zero]
  rw [bytePoly_mul_X, add_modByMonic, bytePoly_modByMonic, dbl, bytePoly_xor]
  cases a.getLsbD 7
  · rw [if_neg Bool.false_ne_true, if_neg Bool.false_ne_true, zero_modByMonic]
    exact congrArg (_ + ·) bytePoly_zero
  · rw [if_pos rfl, if_pos rfl, hx8, add_modByMonic, bytePoly_modByMonic,
      modByMonic_self (monic_modulusPoly mlo), add_zero]

/-- A factor may be reduced first. -/
theorem modByMonic_mul_modByMonic (mlo : Byte) (p q : (ZMod 2)[X]) :
    ((p %ₘ modulusPoly mlo) * q) %ₘ modulusPoly mlo = (p * q) %ₘ modulusPoly mlo := by
  refine modByMonic_eq_of_dvd_sub (monic_modulusPoly mlo) ?_
  rw [← sub_mul, modByMonic_eq_sub_mul_div, sub_sub_cancel_left]
  exact ((dvd_mul_right _ _).neg_right).mul_right q

theorem bytePoly_iterate_dbl (mlo a : Byte) (j : Nat) :
    bytePoly ((dbl mlo)^[j] a) = (bytePoly a * X ^ j) %ₘ modulusPoly mlo := by
  induction j with
  | zero => rw [pow_zero, mul_one, bytePoly_modByMonic]; rfl
  | succ j ih => rw [Function.iterate_succ_apply', bytePoly_dbl, ih, modByMonic_mul_modByMonic, mul_assoc, ← pow_succ]

/-- Settles O16: both sides add in b, and on a bit of b `mul` is repeated doubling. -/
theorem mulIsPolynomialProductModM : Obligations.MulIsPolynomialProductModM := by
  unfold Obligations.MulIsPolynomialProductModM
  intro mlo a b
  induction b using byte_induction with
  | zero => rw [mul_zero_right, bytePoly_zero, mul_zero, zero_modByMonic]
  | bit i hi => rw [mul_bit mlo a hi, bytePoly_iterate_dbl, bytePoly_bit hi]
  | xor x y hx hy => rw [mul_xor_right, bytePoly_xor, hx, hy, bytePoly_xor, mul_add, add_modByMonic]

/-! ### The bytes without an inverse (41_field.md section 1) -/

/-- Product 1, in polynomials. -/
theorem mul_eq_one_iff (mlo a b : Byte) :
    mul mlo a b = 1 ↔ modulusPoly mlo ∣ bytePoly a * bytePoly b - 1 := by
  rw [← wordPoly_injective.eq_iff, ← bytePoly_eq_wordPoly, ← bytePoly_eq_wordPoly, mulIsPolynomialProductModM,
    ← bytePoly_modByMonic mlo 1, bytePoly_one, ← sub_eq_zero, ← sub_modByMonic,
    modByMonic_eq_zero_iff_dvd (monic_modulusPoly mlo)]

/-- `inv` of a nonzero byte: the inverse if there is one, else the answer that there is none (41_field.md R82). -/
theorem inv_cases {a : Byte} (mlo : Byte) (ha : a ≠ 0) :
    (∃ b, mul mlo a b = 1 ∧ inv mlo a = (b, true)) ∨ ((∀ b, mul mlo a b ≠ 1) ∧ inv mlo a = (0, false)) := by
  by_cases h : ∃ b, mul mlo a b = 1
  · obtain ⟨b, hb⟩ := h
    exact .inl ⟨b, hb, inv_eq_of_mul_eq_one hb⟩
  · have hno : ∀ b, mul mlo a b ≠ 1 := not_exists.mp h
    exact .inr ⟨hno, inv_of_forall_mul_ne_one ha hno⟩

theorem inv_isUnit_eq_false_iff {mlo a : Byte} (ha : a ≠ 0) : (inv mlo a).2 = false ↔ ∀ b, mul mlo a b ≠ 1 := by
  obtain ⟨b, hb, he⟩ | ⟨hno, he⟩ := inv_cases mlo ha <;> rw [he]
  · exact iff_of_false nofun fun h => h b hb
  · exact iff_of_true rfl hno

theorem bytePoly_ne_zero {a : Byte} (ha : a ≠ 0) : bytePoly a ≠ 0 :=
  fun h => ha (wordPoly_injective (h.trans bytePoly_zero.symm))

/-- The only byte whose polynomial has an inverse polynomial is 1. -/
theorem isUnit_bytePoly_iff (d : Byte) : IsUnit (bytePoly d) ↔ d = 1 := by
  refine ⟨fun h => wordPoly_injective ?_, fun h => by rw [h, bytePoly_one]; exact isUnit_one⟩
  obtain ⟨c, hc, hd⟩ := Polynomial.isUnit_iff.mp h
  have hunit : ∀ c : ZMod 2, IsUnit c → c = 1 := by decide
  have hc1 : c = 1 := hunit c hc
  calc bytePoly d = 1 := by rw [← hd, hc1, map_one]
    _ = bytePoly 1 := bytePoly_one.symm

/-- A polynomial that is nonzero and of degree below 8, with its byte. -/
theorem exists_bytePoly_eq_of_natDegree_lt {p : (ZMod 2)[X]} (hp : p ≠ 0) (hd : p.natDegree < 8) :
    ∃ b, bytePoly b = p :=
  exists_bytePoly_eq ((natDegree_lt_iff_degree_lt hp).mp hd)

theorem modulusPoly_ne_zero (mlo : Byte) : modulusPoly mlo ≠ 0 := (monic_modulusPoly mlo).ne_zero

theorem natDegree_modulusPoly (mlo : Byte) : (modulusPoly mlo).natDegree = 8 :=
  natDegree_eq_of_degree_eq_some (degree_modulusPoly mlo)

theorem natDegree_bytePoly_lt {a : Byte} (ha : a ≠ 0) : (bytePoly a).natDegree < 8 :=
  (natDegree_lt_iff_degree_lt (bytePoly_ne_zero ha)).mpr (degree_bytePoly_lt a)

/-- A byte coprime to M has an inverse: Bézout's coefficient, reduced. -/
theorem exists_mul_eq_one_of_isCoprime {mlo a : Byte} (h : IsCoprime (bytePoly a) (modulusPoly mlo)) :
    ∃ b, mul mlo a b = 1 := by
  obtain ⟨u, v, huv⟩ := h
  have hdeg := degree_modByMonic_lt u (monic_modulusPoly mlo)
  rw [degree_modulusPoly] at hdeg
  obtain ⟨b, hb⟩ := exists_bytePoly_eq hdeg
  refine ⟨b, (mul_eq_one_iff mlo a b).mpr ⟨-(bytePoly a * (u /ₘ modulusPoly mlo)) - v, ?_⟩⟩
  rw [hb, modByMonic_eq_sub_mul_div]
  linear_combination huv

/-- A nonzero byte that is not coprime to M shares a factor of degree 1 to 7 with it, and both cofactors are bytes. -/
theorem exists_common_factor {mlo a : Byte} (ha : a ≠ 0) (h : ¬ IsCoprime (bytePoly a) (modulusPoly mlo)) :
    ∃ d f g : Byte, 1 < d.toNat ∧ clmul d f = a.setWidth 16 ∧ clmul d g = modulus16 mlo := by
  by_contra hno
  refine h (isCoprime_of_dvd _ _ (fun h0 => bytePoly_ne_zero ha h0.1) fun z hz hz0 => ?_)
  rintro ⟨p, hp⟩ ⟨q, hq⟩
  have hp0 : p ≠ 0 := right_ne_zero_of_mul (hp ▸ bytePoly_ne_zero ha)
  have hq0 : q ≠ 0 := right_ne_zero_of_mul (hq ▸ modulusPoly_ne_zero mlo)
  have hzpos : 0 < z.natDegree := natDegree_pos_iff_degree_pos.mpr (degree_pos_of_ne_zero_of_nonunit hz0 hz)
  have hdega : z.natDegree + p.natDegree < 8 := by
    rw [← natDegree_mul hz0 hp0, ← hp]
    exact natDegree_bytePoly_lt ha
  have hdegM : z.natDegree + q.natDegree = 8 := by
    rw [← natDegree_mul hz0 hq0, ← hq, natDegree_modulusPoly]
  obtain ⟨d, rfl⟩ := exists_bytePoly_eq_of_natDegree_lt hz0 (by omega)
  obtain ⟨f, rfl⟩ := exists_bytePoly_eq_of_natDegree_lt hp0 (by omega)
  obtain ⟨g, rfl⟩ := exists_bytePoly_eq_of_natDegree_lt hq0 (by omega)
  have hd0 : d ≠ 0 := by
    rintro rfl
    exact hz0 bytePoly_zero
  have hd1 : d ≠ 1 := mt (isUnit_bytePoly_iff d).mpr hz
  refine hno ⟨d, f, g, ?_, wordPoly_injective ?_, wordPoly_injective ?_⟩
  · rw [ne_eq, ← BitVec.toNat_inj] at hd0 hd1
    simp only [BitVec.ofNat_eq_ofNat, BitVec.toNat_ofNat] at hd0 hd1
    omega
  · rw [wordPoly_clmul, wordPoly_setWidth, hp]
  · rw [wordPoly_clmul, wordPoly_modulus16, hq]

/-- A byte with a common factor with M has no inverse: the factor would divide 1. -/
theorem mul_ne_one_of_common_factor {mlo a d f g : Byte} (hd : 1 < d.toNat) (hf : clmul d f = a.setWidth 16)
    (hg : clmul d g = modulus16 mlo) (b : Byte) : mul mlo a b ≠ 1 := by
  intro hab
  have hda : bytePoly d ∣ bytePoly a := ⟨bytePoly f, by rw [← wordPoly_clmul, hf, wordPoly_setWidth]⟩
  have hdM : bytePoly d ∣ modulusPoly mlo := ⟨bytePoly g, by rw [← wordPoly_clmul, hg, wordPoly_modulus16]⟩
  have h1 : bytePoly d ∣ 1 :=
    (dvd_sub_right (hda.mul_right _)).mp (hdM.trans ((mul_eq_one_iff mlo a b).mp hab))
  have hd1 : d = 1 := (isUnit_bytePoly_iff d).mp (isUnit_of_dvd_one h1)
  subst hd1
  exact absurd hd (by decide)

/-- Settles O18: the inverse is unique and `mul` is commutative; a byte without an inverse is one not coprime to M. -/
theorem inverseLaws : Obligations.InverseLaws := by
  unfold Obligations.InverseLaws
  refine ⟨fun mlo a b ha h => ?_, fun mlo a b _ h => inv_eq_of_mul_eq_one h, fun mlo a ha => ?_⟩
  · obtain ⟨c, hc, he⟩ | ⟨-, he⟩ := inv_cases mlo ha
    · obtain rfl : c = b := congrArg Prod.fst (he.symm.trans h)
      exact ⟨hc, inv_eq_of_mul_eq_one (by rwa [Machine.mul_comm])⟩
    · cases he.symm.trans h
  · rw [inv_isUnit_eq_false_iff ha]
    refine ⟨fun hno => exists_common_factor ha fun hcop => ?_, fun ⟨d, f, g, hd, hf, hg⟩ =>
      mul_ne_one_of_common_factor hd hf hg⟩
    obtain ⟨b, hb⟩ := exists_mul_eq_one_of_isCoprime hcop
    exact hno b hb

/-! ### The power 254 under an irreducible modulus (41_field.md section 1) -/

/-- 1 is no factor's cofactor in M: M has degree 8 and a byte has degree 7 at most. -/
theorem clmul_ne_modulus16_of_le_one {d g : Byte} (mlo : Byte) (hg : g.toNat ≤ 1) : clmul d g ≠ modulus16 mlo := by
  intro h
  have hM : bytePoly d * bytePoly g = modulusPoly mlo := by rw [← wordPoly_clmul, h, wordPoly_modulus16]
  obtain rfl | rfl : g = 0 ∨ g = 1 := by
    rw [← BitVec.toNat_inj, ← BitVec.toNat_inj]
    simp only [BitVec.ofNat_eq_ofNat, BitVec.toNat_ofNat]
    omega
  · rw [bytePoly_zero, mul_zero] at hM
    exact modulusPoly_ne_zero mlo hM.symm
  · rw [bytePoly_one, mul_one] at hM
    have hdeg := degree_bytePoly_lt d
    rw [hM, degree_modulusPoly] at hdeg
    exact lt_irrefl _ hdeg

/-- Under an irreducible modulus every nonzero byte has an inverse. -/
theorem exists_mul_eq_one_of_irreducible {mlo a : Byte} (hM : IrreducibleModulus mlo) (ha : a ≠ 0) :
    ∃ b, mul mlo a b = 1 := by
  refine exists_mul_eq_one_of_isCoprime (not_not.mp fun hncop => ?_)
  obtain ⟨d, f, g, hd, -, hg⟩ := exists_common_factor ha hncop
  obtain hg1 | hg1 := le_or_gt g.toNat 1
  · exact clmul_ne_modulus16_of_le_one mlo hg1 hg
  · exact hM d g hd hg1 hg

/-- The bytes with `mul` under one modulus, as a type of their own: a byte has the product of `BitVec` already. -/
def FieldByte (_mlo : Byte) : Type := Byte

/-- Under an irreducible modulus the nonzero bytes are a group. -/
@[reducible] noncomputable def FieldByte.groupWithZero {mlo : Byte} (hM : IrreducibleModulus mlo) :
    GroupWithZero (FieldByte mlo) where
  mul := mul mlo
  one := (1 : Byte)
  zero := (0 : Byte)
  inv a := (inv mlo a).1
  mul_assoc := Machine.mul_assoc mlo
  one_mul := mul_one_left mlo
  mul_one := mul_one_right mlo
  zero_mul := mul_zero_left mlo
  mul_zero := mul_zero_right mlo
  exists_pair_ne := ⟨(0 : Byte), (1 : Byte), (by decide : (0 : Byte) ≠ 1)⟩
  inv_zero := rfl
  mul_inv_cancel a ha := by
    obtain ⟨b, hb⟩ := exists_mul_eq_one_of_irreducible hM ha
    change mul mlo a (inv mlo a).1 = 1
    rw [inv_eq_of_mul_eq_one hb, hb]

/-- The power taken with `mul` is the group's. -/
theorem FieldByte.pow_eq_fieldPow {mlo : Byte} (hM : IrreducibleModulus mlo) (a : FieldByte mlo) (n : Nat) :
    let _ := groupWithZero hM; a ^ n = fieldPow mlo a n := by
  intro
  induction n with
  | zero => exact pow_zero a
  | succ n ih => exact (pow_succ' a n).trans (congrArg (mul mlo a) ih)

/-- The power 255 of a nonzero byte is 1: there are 255 nonzero bytes. -/
theorem fieldPow_255 {mlo a : Byte} (hM : IrreducibleModulus mlo) (ha : a ≠ 0) : fieldPow mlo a 255 = 1 := by
  let _ := FieldByte.groupWithZero hM
  let _ : Fintype (FieldByte mlo) := inferInstanceAs (Fintype Byte)
  have hcard : Fintype.card (FieldByte mlo) = 256 := card_byte
  have h : ∀ x : FieldByte mlo, x ≠ 0 → x ^ (256 - 1) = 1 := hcard ▸ FiniteField.pow_card_sub_one_eq_one
  exact (FieldByte.pow_eq_fieldPow hM a 255).symm.trans (h a ha)

theorem fieldPow_add (mlo a : Byte) (m n : Nat) :
    fieldPow mlo a (m + n) = mul mlo (fieldPow mlo a m) (fieldPow mlo a n) := by
  induction m with
  | zero => rw [Nat.zero_add, fieldPow, mul_one_left]
  | succ m ih => rw [Nat.add_right_comm, fieldPow, ih, fieldPow, Machine.mul_assoc]

/-- Powers repeat after an exponent whose power is 1. -/
theorem fieldPow_period {mlo a : Byte} {k : Nat} (hk : fieldPow mlo a k = 1) (q r : Nat) :
    fieldPow mlo a (k * q + r) = fieldPow mlo a r := by
  induction q with
  | zero => rw [Nat.mul_zero, Nat.zero_add]
  | succ q ih => rw [Nat.mul_succ, Nat.add_right_comm, fieldPow_add, ih, hk, mul_one_right]

/-- Settles O19: a times its power 254 is its power 255, which is 1. Under M = 0x100 the powers of 3 repeat after 8. -/
theorem irreducibleModulusGivesAField : Obligations.IrreducibleModulusGivesAField := by
  unfold Obligations.IrreducibleModulusGivesAField
  have hperiod : fieldPow 0x00 0x03 8 = 1 := by decide +kernel
  refine ⟨fun mlo a hM ha => inv_eq_of_mul_eq_one (fieldPow_255 hM ha), ?_, inv_eq_of_mul_eq_one (by decide)⟩
  calc fieldPow 0x00 0x03 254 = fieldPow 0x00 0x03 6 := fieldPow_period hperiod 31 6
    _ = 0x55 := by decide +kernel

end Sys2Proof.Machine

end

section
/-! PROOFS. The affine transform (42_affine.md): its matrix, and when it is a bijection. -/

namespace Sys2Proof.Machine

/-! ### The matrix (42_affine.md R90) -/

/-- A rotation moves each bit up, around. -/
theorem getLsbD_rotl8 (v : Byte) {i j : Nat} (hi : i < 8) (hj : j < 8) :
    (rotl8 v i).getLsbD j = v.getLsbD ((j + 8 - i) % 8) := by
  rw [rotl8, BitVec.getLsbD_rotateLeft, Nat.mod_eq_of_lt hi]
  by_cases hji : j < i
  · have hmod : (j + 8 - i) % 8 = 8 - i + j := by omega
    simp [hji, hmod]
  · have hmod : (j + 8 - i) % 8 = j - i := by omega
    simp [hji, hj, hmod]

/-- Row i of the matrix is the seed rotated, so its entry j is bit j - i of the seed, around. -/
theorem getLsbD_affineRow (seed : Byte) {i j : Nat} (hi : i < 8) (hj : j < 8) :
    (affineRow seed i).getLsbD j = seed.getLsbD ((j + 8 - i) % 8) :=
  getLsbD_rotl8 seed hi hj

/-- A masked parity, as a count over the bit positions. -/
theorem parity_affineRow_and (seed x : Byte) {i : Nat} (hi : i < 8) : parity (affineRow seed i &&& x) =
    ((List.range 8).countP (fun j => seed.getLsbD ((j + 8 - i) % 8) && x.getLsbD j) % 2 == 1) := by
  have hrange : bitPositions = List.range 8 := rfl
  rw [parity, popcount, hrange, List.countP_congr fun j hj => ?_]
  rw [BitVec.getLsbD_and, getLsbD_affineRow seed hi (List.mem_range.mp hj)]

/-- Settles O21: an output bit is the parity of the masked row plus the constant's bit. -/
theorem affineBitsFollowTheCirculantMatrix : Obligations.AffineBitsFollowTheCirculantMatrix := by
  unfold Obligations.AffineBitsFollowTheCirculantMatrix
  refine ⟨fun seed x c i hi => ?_, fun seed i j hi hj => getLsbD_affineRow seed hi hj, by decide⟩
  rw [getLsbD_aff seed x c hi, parity_affineRow_and seed x hi, Bool.xor_comm]

/-! ### Linearity (42_affine.md section 3) -/

/-- Counted modulo 2, a position in both lists of bits counts as in neither. -/
theorem countP_xor_mod_two (f g : Nat → Bool) (l : List Nat) :
    l.countP (fun i => f i ^^ g i) % 2 = (l.countP f + l.countP g) % 2 := by
  induction l with
  | nil => rfl
  | cons i l ih =>
    rw [List.countP_cons, List.countP_cons, List.countP_cons]
    cases f i <;> cases g i <;> simp <;> omega

theorem parity_xor (x y : Byte) : parity (x ^^^ y) = (parity x ^^ parity y) := by
  have hcount : popcount (x ^^^ y) % 2 = (popcount x + popcount y) % 2 := by
    simp only [popcount, BitVec.getLsbD_xor]
    exact countP_xor_mod_two _ _ _
  rw [parity, parity, parity, hcount, Nat.add_mod]
  obtain hx | hx := Nat.mod_two_eq_zero_or_one (popcount x) <;>
    obtain hy | hy := Nat.mod_two_eq_zero_or_one (popcount y) <;> rw [hx, hy] <;> rfl

theorem xorLinear_aff (seed : Byte) : XorLinear fun x => aff seed x 0 := by
  intro x y
  refine BitVec.eq_of_getLsbD_eq fun i hi => ?_
  have hand (r : Byte) : r &&& (x ^^^ y) = (r &&& x) ^^^ (r &&& y) := by
    ext k hk
    simp [Bool.and_xor_distrib_left]
  have hzero : (0 : Byte).getLsbD i = false := BitVec.getLsbD_zero
  simp only [BitVec.getLsbD_xor, getLsbD_aff _ _ _ hi, hand, parity_xor, hzero, Bool.xor_false]

/-- The constant is added at the end. -/
theorem aff_eq_xor (seed x c : Byte) : aff seed x c = aff seed x 0 ^^^ c := by
  refine BitVec.eq_of_getLsbD_eq fun i hi => ?_
  have hzero : (0 : Byte).getLsbD i = false := BitVec.getLsbD_zero
  simp only [BitVec.getLsbD_xor, getLsbD_aff _ _ _ hi, hzero, Bool.xor_false]

/-! ### Bijectivity (42_affine.md section 3)

A circulant matrix is the product with one byte modulo x^8 + 1, the modulus whose low byte is 1, in which the doubling is
the rotation by one place. -/

/-- The byte whose product modulo x^8 + 1 is the matrix of the seed: the matrix's first column. -/
def circulant (seed : Byte) : Byte := aff seed 1 0

theorem dbl_one_eq_rotl8 : ∀ x : Byte, dbl 1 x = rotl8 x 1 := by decide +kernel

theorem parity_rotl8_one : ∀ v : Byte, parity (rotl8 v 1) = parity v := by decide +kernel

/-- A row masked by a rotated input is the row before it masked by the input, rotated. -/
theorem affineRow_and_rotl8 (seed x : Byte) {i : Nat} (hi : i < 8) :
    affineRow seed i &&& rotl8 x 1 = rotl8 (affineRow seed ((i + 7) % 8) &&& x) 1 := by
  refine BitVec.eq_of_getLsbD_eq fun j hj => ?_
  have hplace : (j + 8 - i) % 8 = ((j + 8 - 1) % 8 + 8 - (i + 7) % 8) % 8 := by omega
  rw [BitVec.getLsbD_and, getLsbD_affineRow seed hi hj, getLsbD_rotl8 x (by decide) hj, getLsbD_rotl8 _ (by decide) hj,
    BitVec.getLsbD_and, getLsbD_affineRow seed (Nat.mod_lt _ (by decide)) (Nat.mod_lt _ (by decide)), hplace]

/-- Rotating the input rotates the output. -/
theorem aff_dbl (seed x : Byte) : aff seed (dbl 1 x) 0 = dbl 1 (aff seed x 0) := by
  rw [dbl_one_eq_rotl8, dbl_one_eq_rotl8]
  refine BitVec.eq_of_getLsbD_eq fun i hi => ?_
  have hzero (k : Nat) : (0 : Byte).getLsbD k = false := BitVec.getLsbD_zero
  rw [getLsbD_rotl8 _ (by decide) hi, getLsbD_aff _ _ _ hi, getLsbD_aff _ _ _ (Nat.mod_lt _ (by decide)),
    affineRow_and_rotl8 seed x hi, parity_rotl8_one, hzero, hzero, Nat.add_sub_assoc (by decide)]

theorem aff_eq_mul (seed x : Byte) : aff seed x 0 = mul 1 (circulant seed) x :=
  (xorLinear_aff seed).eq_mul (aff_dbl seed) x

/-- The square modulo x^8 + 1. -/
def square (v : Byte) : Byte := mul 1 v v

/-- The square of a sum is the sum of the squares: the two mixed products are equal and cancel. -/
theorem xorLinear_square : XorLinear square := by
  intro x y
  rw [square, mul_xor_right, mul_xor_left, mul_xor_left, Machine.mul_comm 1 y x, square, square]
  calc _ = mul 1 x x ^^^ (mul 1 x y ^^^ mul 1 x y) ^^^ mul 1 y y := by ac_rfl
    _ = mul 1 x x ^^^ mul 1 y y := by rw [BitVec.xor_self, BitVec.xor_zero]

theorem xorLinear_ite_parity (c : Byte) : XorLinear fun v => if parity v then c else 0 := by
  intro x y
  simp only [parity_xor]
  cases parity x <;> cases parity y <;> simp

/-- Modulo x^8 + 1 the power 8 of a byte is its parity: on a bit x^i it is x^(8i) = 1. -/
theorem square_iterate_three (v : Byte) : square^[3] v = if parity v then 1 else 0 :=
  XorLinear.ext (xorLinear_square.iterate 3) (xorLinear_ite_parity 1) (by decide +kernel) v

/-- A factor whose square can be cancelled can be cancelled. -/
theorem injective_mul_of_square {v : Byte} (h : Function.Injective (mul 1 (square v))) :
    Function.Injective (mul 1 v) := by
  have hcomp : mul 1 (square v) = mul 1 v ∘ mul 1 v := funext (Machine.mul_assoc 1 v v)
  exact (hcomp ▸ h).of_comp

/-- Modulo x^8 + 1 a byte of odd weight can be cancelled: its power 8 is 1. -/
theorem injective_mul_of_parity {v : Byte} (h : parity v = true) : Function.Injective (mul 1 v) := by
  have h8 : square (square (square v)) = 1 := by simpa [h] using square_iterate_three v
  refine injective_mul_of_square (injective_mul_of_square (injective_mul_of_square ?_))
  rw [h8]
  exact fun x y hxy => by rwa [mul_one_left, mul_one_left] at hxy

/-- The product with 0xFF, the sum of all powers of x, is the parity. -/
theorem mul_one_0xFF (v : Byte) : mul 1 v 0xFF = if parity v then 0xFF else 0 :=
  XorLinear.ext (f := fun v => mul 1 v 0xFF) (fun x y => mul_xor_left 1 x y 0xFF) (xorLinear_ite_parity 0xFF)
    (by decide +kernel) v

/-- Every row of the matrix has the parity of the seed. -/
theorem parity_affineRow (seed : Byte) {i : Nat} (hi : i < 8) : parity (affineRow seed i) = parity seed := by
  induction i with
  | zero =>
    have hrow : affineRow seed 0 = seed := BitVec.eq_of_getLsbD_eq fun j hj => by
      rw [getLsbD_affineRow seed hi hj, Nat.sub_zero, Nat.add_mod_right, Nat.mod_eq_of_lt hj]
    rw [hrow]
  | succ i ih =>
    have hrow : affineRow seed (i + 1) = rotl8 (affineRow seed i) 1 := BitVec.eq_of_getLsbD_eq fun j hj => by
      have hplace : (j + 8 - (i + 1)) % 8 = ((j + 8 - 1) % 8 + 8 - i) % 8 := by omega
      rw [getLsbD_affineRow seed hi hj, getLsbD_rotl8 _ (by decide) hj,
        getLsbD_affineRow seed (by omega) (Nat.mod_lt _ (by decide)), hplace]
    rw [hrow, parity_rotl8_one, ih (by omega)]

/-- So the input 0xFF is taken to the parity of the seed, eight times. -/
theorem aff_0xFF (seed : Byte) : aff seed 0xFF 0 = if parity seed then 0xFF else 0 := by
  refine BitVec.eq_of_getLsbD_eq fun i hi => ?_
  have hff (r : Byte) : r &&& 0xFF = r := BitVec.and_allOnes
  have hzero : (0 : Byte).getLsbD i = false := BitVec.getLsbD_zero
  rw [getLsbD_aff _ _ _ hi, hff, parity_affineRow seed hi, hzero, Bool.xor_false]
  cases parity seed
  · exact hzero.symm
  · interval_cases i <;> rfl

/-- The matrix's first column has the parity of the seed. -/
theorem parity_circulant (seed : Byte) : parity (circulant seed) = parity seed := by
  have h := (mul_one_0xFF (circulant seed)).symm.trans ((aff_eq_mul seed 0xFF).symm.trans (aff_0xFF seed))
  cases hc : parity (circulant seed) <;> cases hs : parity seed
  · rfl
  · rw [hc, hs] at h; exact absurd h (by decide)
  · rw [hc, hs] at h; exact absurd h (by decide)
  · rfl

theorem parity_eq_true_iff (v : Byte) : parity v = true ↔ popcount v % 2 = 1 := by rw [parity, beq_iff_eq]

/-- Before the constant is added, the transform is one-to-one exactly for a seed of odd weight. -/
theorem aff_injective_iff (seed : Byte) : Function.Injective (fun x => aff seed x 0) ↔ popcount seed % 2 = 1 := by
  rw [← parity_eq_true_iff]
  constructor
  · intro h
    by_contra heven
    have h0 : aff seed 0xFF 0 = aff seed 0 0 := by rw [aff_0xFF, if_neg heven, aff_zero_input]
    exact absurd (h h0) (by decide)
  · intro hodd
    rw [funext (aff_eq_mul seed)]
    exact injective_mul_of_parity ((parity_circulant seed).trans hodd)

/-- A byte added twice cancels. -/
theorem xor_xor_self (x c : Byte) : x ^^^ c ^^^ c = x := by
  rw [BitVec.xor_assoc, BitVec.xor_self, BitVec.xor_zero]

/-- Adding a constant is a bijection of the bytes. -/
theorem bijective_xor_const (c : Byte) : Function.Bijective fun y : Byte => y ^^^ c :=
  Function.Involutive.bijective fun y => xor_xor_self y c

theorem aff_bijective_iff (seed c : Byte) : Function.Bijective (fun x => aff seed x c) ↔ popcount seed % 2 = 1 := by
  have hcomp : (fun x => aff seed x c) = (fun y => y ^^^ c) ∘ fun x => aff seed x 0 := funext (aff_eq_xor seed · c)
  rw [hcomp, (bijective_xor_const c).of_comp_iff', ← Finite.injective_iff_bijective, aff_injective_iff]

/-- Settles O22: the transform is the product with one byte modulo x^8 + 1, and that byte is a unit exactly for an odd
weight. -/
theorem affineIsBijectiveExactlyForOddSeeds : Obligations.AffineIsBijectiveExactlyForOddSeeds := by
  unfold Obligations.AffineIsBijectiveExactlyForOddSeeds
  exact ⟨fun seed x y c => ⟨xorLinear_aff seed x y, aff_eq_xor seed x c⟩, aff_bijective_iff⟩

end Sys2Proof.Machine

end

section
/-! PROOFS. The S-box generator (43_sbox.md): when a build is a bijection, and what the search finds. -/

namespace Sys2Proof.Machine

/-! ### The search (43_sbox.md R96) -/

/-- The search answers the least constant whose table is valid. -/
theorem searchConst_eq_some_iff (mlo seed c : Byte) : searchConst mlo seed = some c ↔
    validSbox (build mlo seed c) = true ∧ ∀ d : Byte, d.toNat < c.toNat → validSbox (build mlo seed d) = false := by
  rw [searchConst, allBytes, List.find?_map, Option.map_eq_some_iff]
  simp only [List.find?_range_eq_some, List.mem_range, Function.comp_apply, Bool.not_eq_true']
  constructor
  · rintro ⟨n, ⟨hvalid, hn, hleast⟩, rfl⟩
    refine ⟨hvalid, fun d hd => ?_⟩
    rw [BitVec.toNat_ofNat, Nat.mod_eq_of_lt hn] at hd
    simpa using hleast d.toNat hd
  · rintro ⟨hvalid, hleast⟩
    refine ⟨c.toNat, ⟨by simpa using hvalid, c.isLt, fun j hj => hleast _ ?_⟩, by simp⟩
    rw [BitVec.toNat_ofNat, Nat.mod_eq_of_lt (hj.trans c.isLt)]
    exact hj

/-- The search answers NONE when no constant has a valid table. -/
theorem searchConst_eq_none_iff (mlo seed : Byte) :
    searchConst mlo seed = none ↔ ∀ c : Byte, validSbox (build mlo seed c) = false := by
  simp [searchConst, mem_allBytes]

/-- A table built from the constant 0 has the fixed point 0. -/
theorem validSbox_build_zero (mlo seed : Byte) : validSbox (build mlo seed 0) = false := by
  rw [Bool.eq_false_iff, ne_eq, validSbox_iff]
  exact fun h => h.2 0 (at_build_zero mlo seed 0)

/-- SSEARCH checks no operand: its completion is that of the search's answer. -/
theorem exec_ssearch (s : State) : exec .ssearch s = .next (finish (finishSearch (searchConst s.mlo s.seed) s)) :=
  exec_of_no_check (.inl rfl) s

/-- Settles O25: the two answers of the search are the two endings. -/
theorem ssearchTakesTheLeastValidConstant : Obligations.SsearchTakesTheLeastValidConstant := by
  unfold Obligations.SsearchTakesTheLeastValidConstant
  refine ⟨decode_encode .ssearch, fun s => ?_, fun mlo seed h => ?_⟩
  · rw [exec_ssearch]
    cases hs : searchConst s.mlo s.seed with
    | some c =>
      obtain ⟨hvalid, hleast⟩ := (searchConst_eq_some_iff _ _ c).mp hs
      exact .inl ⟨c, hvalid, hleast, rfl⟩
    | none => exact .inr ⟨(searchConst_eq_none_iff _ _).mp hs, freeTable s.draws, rfl⟩
  · obtain ⟨hvalid, -⟩ := (searchConst_eq_some_iff mlo seed 0).mp h
    exact absurd hvalid (Bool.eq_false_iff.mp (validSbox_build_zero mlo seed))

/-! ### Builds that are bijections (43_sbox.md section 3) -/

/-- The constant only shifts the table. -/
theorem at_build_eq_xor (mlo seed c x : Byte) :
    Indexed.at (build mlo seed c) x = Indexed.at (build mlo seed 0) x ^^^ c := by
  rw [at_build, at_build, aff_eq_xor]

/-- The modulus is irreducible when every nonzero byte has an inverse: a factor of M has none. -/
theorem irreducibleModulus_iff (mlo : Byte) :
    IrreducibleModulus mlo ↔ ∀ a : Byte, a ≠ 0 → ∃ b, mul mlo a b = 1 := by
  refine ⟨fun hM a ha => exists_mul_eq_one_of_irreducible hM ha, fun hunit f g hf _ hfg => ?_⟩
  have hf0 : f ≠ 0 := by
    rintro rfl
    exact absurd hf (by decide)
  have hf1 : clmul f 1 = f.setWidth 16 := (clmul_bit f (j := 0) (by decide)).trans (BitVec.shiftLeft_zero _)
  obtain ⟨b, hb⟩ := hunit f hf0
  exact mul_ne_one_of_common_factor hf hf1 hfg b hb

/-- The map from a byte to its inverse, 0 where there is none, is a bijection exactly under an irreducible modulus: then it
is its own inverse, and else it takes a nonzero byte to 0. -/
theorem inv_bijective_iff (mlo : Byte) : Function.Bijective (fun x => (inv mlo x).1) ↔ IrreducibleModulus mlo := by
  rw [irreducibleModulus_iff]
  constructor
  · intro h a ha
    obtain ⟨b, hb, -⟩ | ⟨-, he⟩ := inv_cases mlo ha
    · exact ⟨b, hb⟩
    · have h0 : (inv mlo a).1 = (inv mlo 0).1 := by rw [he, inv_zero]
      exact absurd (h.injective h0) ha
  · refine fun hunit => Function.Involutive.bijective fun x => ?_
    by_cases hx : x = 0
    · rw [hx, inv_zero, inv_zero]
    · obtain ⟨b, hb⟩ := hunit x hx
      rw [inv_eq_of_mul_eq_one hb, inv_eq_of_mul_eq_one (by rwa [Machine.mul_comm] : mul mlo b x = 1)]

/-- A build is the affine transform of the inverse, and a bijection when both are. -/
theorem build_bijective_iff (mlo seed c : Byte) :
    Function.Bijective (Indexed.at (build mlo seed c)) ↔ IrreducibleModulus mlo ∧ popcount seed % 2 = 1 := by
  have hcomp : Indexed.at (build mlo seed c) = (fun y => aff seed y c) ∘ fun x => (inv mlo x).1 :=
    funext (at_build mlo seed c)
  rw [hcomp, ← inv_bijective_iff, ← aff_bijective_iff seed c]
  refine ⟨fun h => ?_, fun ⟨hinv, haff⟩ => haff.comp hinv⟩
  have hinv := Finite.injective_iff_bijective.mp h.injective.of_comp
  exact ⟨hinv, (hinv.of_comp_iff _).mp h⟩

/-- A constant is valid when the builds are bijections and no entry of the table of 0 is the index plus the constant. -/
theorem validSbox_build_iff (mlo seed c : Byte) : validSbox (build mlo seed c) = true ↔
    (IrreducibleModulus mlo ∧ popcount seed % 2 = 1) ∧ ∀ x, Indexed.at (build mlo seed 0) x ^^^ x ≠ c := by
  have hfixed (x y : Byte) : y ^^^ c = x ↔ y ^^^ x = c := by
    constructor <;> rintro rfl <;> rw [← BitVec.xor_assoc, BitVec.xor_self, BitVec.zero_xor]
  simp only [validSbox_iff, build_bijective_iff, at_build_eq_xor mlo seed c, ne_eq, hfixed]

/-- Settles O27: a valid constant needs builds that are bijections, which the modulus and the seed decide. -/
theorem searchFailsExactlyWithoutAValidConstant : Obligations.SearchFailsExactlyWithoutAValidConstant := by
  unfold Obligations.SearchFailsExactlyWithoutAValidConstant
  have hnone (mlo seed : Byte) (h : ¬ (IrreducibleModulus mlo ∧ popcount seed % 2 = 1)) : searchConst mlo seed = none :=
    (searchConst_eq_none_iff mlo seed).mpr fun c =>
      Bool.eq_false_iff.mpr fun hv => h ((validSbox_build_iff mlo seed c).mp hv).1
  refine ⟨fun mlo seed c x => ⟨at_build_zero mlo seed c, at_build_eq_xor mlo seed c x⟩,
    fun mlo seed c hM hodd => (build_bijective_iff mlo seed c).mpr ⟨hM, hodd⟩,
    fun mlo seed hM => hnone mlo seed fun h => hM h.1,
    fun mlo seed heven => hnone mlo seed fun h => absurd h.2 (by omega), searchConst_eq_some_iff, fun mlo seed => ?_⟩
  simp only [searchConst_eq_none_iff, Bool.eq_false_iff, ne_eq, validSbox_build_iff, build_bijective_iff, not_and_or,
    not_forall, not_not]
  exact forall_or_left

/-! ### The search from reset (43_sbox.md section 2, the example) -/

/-- The reset modulus is irreducible: V-S1 holds an inverse of every nonzero byte, before the affine transform. -/
theorem irreducibleModulus_0x1B : IrreducibleModulus 0x1B :=
  (irreducibleModulus_iff 0x1B).mpr fun a ha => ⟨_, mul_aesPreimage_eq_one a ha⟩

/-- The table of the constant 0 under the reset configuration, from V-S1, the table of 0x63. -/
theorem at_build_reset_zero (x : Byte) : Indexed.at (build 0x1B 0xF1 0) x = Indexed.at aesTable x ^^^ 0x63 := by
  rw [← build_aes, at_build_eq_xor _ _ 0x63, xor_xor_self]

/-- Under the reset configuration a constant is valid when no entry of V-S1 is the index plus 0x63 plus the constant. -/
theorem validSbox_build_reset_iff (c : Byte) :
    validSbox (build 0x1B 0xF1 c) = true ↔ ∀ x, Indexed.at aesTable x ^^^ 0x63 ^^^ x ≠ c := by
  have hbij : IrreducibleModulus 0x1B ∧ popcount 0xF1 % 2 = 1 := ⟨irreducibleModulus_0x1B, by decide⟩
  simp only [validSbox_build_iff, hbij, true_and, at_build_reset_zero]

theorem searchConst_reset : searchConst 0x1B 0xF1 = some 5 := by
  have hbelow : ∀ d : Byte, d.toNat < 5 → ∃ x, Indexed.at aesTable x ^^^ 0x63 ^^^ x = d := by decide +kernel
  refine (searchConst_eq_some_iff _ _ 5).mpr ⟨(validSbox_build_reset_iff 5).mpr (by decide +kernel), fun d hd => ?_⟩
  rw [Bool.eq_false_iff, ne_eq, validSbox_build_reset_iff]
  obtain ⟨x, hx⟩ := hbelow d hd
  exact fun h => h x hx

theorem at_build_reset_five (x : Byte) :
    Indexed.at (build 0x1B 0xF1 5) x = Indexed.at aesTable x ^^^ 0x63 ^^^ 5 := by
  rw [at_build_eq_xor, at_build_reset_zero]

/-- Settles O26: the table of 5 is V-S1 shifted by 0x66, so its entries are read off V-S1, with no search for an inverse. -/
theorem searchFromResetFindsFive : Obligations.SearchFromResetFindsFive := by
  unfold Obligations.SearchFromResetFindsFive
  have hend : exec .ssearch State.reset = .next (finish (writeRes0 5 (installTable 5 State.reset))) := by
    rw [exec_ssearch]
    change Host.Outcome.next (finish (finishSearch (searchConst 0x1B 0xF1) State.reset)) = _
    rw [searchConst_reset]
    rfl
  refine ⟨_, hend, rfl, rfl, ?_, ?_⟩
  · exact (at_build_reset_five 0x53).trans (by decide)
  · exact (at_build_reset_five 0x00).trans (by decide)

end Sys2Proof.Machine

end

section
/-! PROOFS. The window (20_memory.md; 10_state.md): reads without side effects, the S-box window, and the registers. -/

namespace Sys2Proof.Machine

/-! ### Reads (20_memory.md R45, R48) -/

/-- Settles O46: a served transaction is answered OKAY, and the only thing a read changes is the count of draws. -/
theorem servedReadsHaveNoSideEffect : Obligations.ServedReadsHaveNoSideEffect := by
  unfold Obligations.ServedReadsHaveNoSideEffect
  intro s off w h4
  have hs : served off 4 = true := (served_iff off 4).mpr ⟨rfl, h4⟩
  rw [memRead_served hs, memWrite_served hs]
  refine ⟨rfl, rfl, ?_, fun hb => congrArg Prod.snd (readReg_idle hb)⟩
  obtain he | ⟨-, -, he⟩ := readReg_state (regAt off) s <;> rw [he]
  rfl

/-- A served read while BUSY = 0 answers the register's value and changes nothing (10_state.md R15). -/
theorem memRead_of_idle {off : Offset} {r : Reg} {s : State} (hs : served off 4 = true) (hr : regAt off = r)
    (hb : s.busy = false) : memRead off 4 s = ((regValue r s, .okay), s) := by
  rw [memRead_served hs, hr, readReg_idle hb]

/-- A served read of an ROU register while BUSY = 1 answers a free value in its fields (10_state.md R15; 93 U2). -/
theorem memRead_rou_of_busy {off : Offset} {r : Reg} {s : State} (hs : served off 4 = true) (hr : regAt off = r)
    (hrou : readsRou r = true) (hb : s.busy = true) :
    memRead off 4 s = ((Config.freeWord s.draws &&& unspecifiedBits r, .okay), { s with draws := s.draws + 1 }) := by
  have hcond : (readsRou r && s.busy) = true := by rw [hrou, hb, Bool.and_self]
  rw [memRead_served hs, hr, readReg, if_pos hcond]
  rfl

/-- A served write to a register that ignores writes changes nothing. -/
theorem memWrite_ignored {off : Offset} {r : Reg} (w : Word) (s : State) (hs : served off 4 = true) (hr : regAt off = r)
    (hig : writeAccess r = .ignored) : memWrite off 4 w s = (.okay, s) := by
  rw [memWrite_eq_writeReg w s hs hr, writeReg_ignored w s hig]

/-- A served write to an RWB register while BUSY = 0 is stored (10_state.md R15). -/
theorem memWrite_rwb_of_idle {off : Offset} {r : Reg} {s : State} (w : Word) (hs : served off 4 = true)
    (hr : regAt off = r) (hrwb : writeAccess r = .rwb) (hb : s.busy = false) :
    memWrite off 4 w s = (.okay, storeReg r w s) := by
  rw [memWrite_eq_writeReg w s hs hr]
  simp only [writeReg, hrwb, hb, Bool.false_eq_true, if_false]

/-! ### The operands and SEED (10_state.md R26, R28 to R30) -/

/-- Settles O50: the four registers are not ROU; OPA and OPB are RWB, SEED is RWL. -/
theorem operandAndSeedRegisters : Obligations.OperandAndSeedRegisters := by
  unfold Obligations.OperandAndSeedRegisters
  refine fun s w => ⟨memRead_eq_regValue (r := .cmd) s rfl rfl rfl, memRead_eq_regValue (r := .opa) s rfl rfl rfl,
    memRead_eq_regValue (r := .opb) s rfl rfl rfl, memRead_eq_regValue (r := .seed) s rfl rfl rfl,
    fun hb => ⟨memWrite_rwb_of_idle (r := .opa) w rfl rfl rfl hb, memWrite_rwb_of_idle (r := .opb) w rfl rfl rfl hb⟩,
    fun hb hl => ?_⟩
  rw [memWrite_eq_writeReg (r := .seed) w s rfl rfl, writeReg_rwl_of_unlocked w rfl hb hl]
  rfl

/-! ### The S-box window (20_memory.md R50) -/

theorem toNat_sboxOffset (k : Fin 64) : (BitVec.ofNat 12 (0x100 + 4 * k.val)).toNat = 0x100 + 4 * k.val := by
  rw [BitVec.toNat_ofNat]
  omega

/-- The offset of word k is served. -/
theorem served_sboxOffset (k : Fin 64) : served (BitVec.ofNat 12 (0x100 + 4 * k.val)) 4 = true := by
  rw [served_iff, toNat_sboxOffset]
  omega

theorem regAt_sboxOffset (k : Fin 64) : regAt (BitVec.ofNat 12 (0x100 + 4 * k.val)) = .sbox k :=
  regAt_sbox (toNat_sboxOffset k)

/-- Word 0 of V-S1. -/
theorem sboxWord_zero_of_toList {t : Table} (h : t.toList = aesSbox) : sboxWord t 0 = 0x7B777C63 := by
  have ht : t = aesTable := Vector.toList_inj.mp h
  rw [ht]
  decide +kernel

/-- Settles O47: the window's words are ROU and RWB; a write stores four entries and clears SVALID. -/
theorem sboxWindowReadsAndWrites : Obligations.SboxWindowReadsAndWrites := by
  unfold Obligations.SboxWindowReadsAndWrites
  intro s k w
  have hs := served_sboxOffset k
  have hr := regAt_sboxOffset k
  refine ⟨fun hb => memRead_of_idle hs hr hb, fun hb => ⟨_, memRead_rou_of_busy hs hr rfl hb⟩, fun hb => ?_,
    fun hb => memWrite_guarded_of_busy w hs hr (.inl rfl) hb, fun hb _ ht => ?_⟩
  · obtain ⟨h0, h1, h2, h3⟩ := sboxStore_written s.t k w
    exact ⟨sboxStore s.t k w, memWrite_rwb_of_idle w hs hr rfl hb, h0, h1, h2, h3,
      fun j hj => sboxStore_frame s.t k w j j.isLt hj⟩
  · rw [memRead_of_idle (r := .sbox 0) rfl rfl hb]
    exact sboxWord_zero_of_toList ht

/-! ### ID and the matrix registers (10_state.md R17, R27) -/

/-- Lane i of AMAT0 is row i of the matrix. -/
theorem lane_amat0 (s : State) {i : Nat} (hi : i < 4) : lane i (regValue .amat0 s) = s.seed.rotateLeft i :=
  lane_pack (affineRow s.seed) hi

/-- Lane i of AMAT1 is row 4 + i of the matrix. -/
theorem lane_amat1 (s : State) {i : Nat} (hi : i < 4) : lane i (regValue .amat1 s) = s.seed.rotateLeft (4 + i) :=
  lane_pack (fun i => affineRow s.seed (4 + i)) hi

/-- Settles O48: the three registers are RO; the matrix registers hold the rows of the matrix in their lanes. -/
theorem identityAndMatrixRegisters : Obligations.IdentityAndMatrixRegisters := by
  unfold Obligations.IdentityAndMatrixRegisters
  have h0 (s : State) : memRead 0x028 4 s = ((regValue .amat0 s, .okay), s) := memRead_eq_regValue s rfl rfl rfl
  have h1 (s : State) : memRead 0x02C 4 s = ((regValue .amat1 s, .okay), s) := memRead_eq_regValue s rfl rfl rfl
  refine ⟨fun s w => ⟨memRead_eq_regValue (r := .id) s rfl rfl rfl, memWrite_ignored (r := .id) w s rfl rfl rfl,
    memWrite_ignored (r := .amat0) w s rfl rfl rfl, memWrite_ignored (r := .amat1) w s rfl rfl rfl⟩,
    fun s i hi => ?_, ?_⟩
  · rw [h0, h1]
    exact ⟨rfl, lane_amat0 s hi, rfl, lane_amat1 s hi⟩
  · rw [h0, h1]
    decide +kernel

/-! ### The result registers (10_state.md R31 to R34) -/

/-- The SCONST word as a number: SVALID in bit 8 above the constant. -/
theorem regValue_sconst_toNat (s : State) :
    (regValue .sconst s).toNat = s.sconst.toNat + (if s.svalid then 256 else 0) := by
  have hflag : (0#23 ++ flagBit s.svalid : BitVec 24).toNat = if s.svalid then 1 else 0 := by
    cases s.svalid <;> rfl
  rw [regValue, BitVec.toNat_append, hflag, ← Nat.shiftLeft_add_eq_or_of_lt s.sconst.isLt, Nat.add_comm]
  cases s.svalid <;> rfl

/-- The offsets of the ROU registers outside the S-box window, with the registers and the widths of their fields. -/
def resultRegs : List (Offset × Reg × Nat) :=
  [(0x018, .res0, 32), (0x01C, .res1, 32), (0x030, .sconst, 9), (0x040, .metBij, 9), (0x044, .metNl, 8),
    (0x048, .metSac, 15), (0x04C, .metDu, 9), (0x050, .metLb, 8), (0x054, .metDeg, 4), (0x058, .metFp, 9)]

/-- Each of them is served at its offset, ROU, ignores writes, and has its unspecified bits below its width. -/
theorem resultRegs_spec : ∀ p ∈ resultRegs, served p.1 4 = true ∧ regAt p.1 = p.2.1 ∧ readsRou p.2.1 = true ∧
    writeAccess p.2.1 = .ignored ∧ (unspecifiedBits p.2.1).toNat < 2 ^ p.2.2 := by
  decide +kernel

/-- Settles O51: the result registers are ROU and ignore writes; a free value is masked to the register's fields. -/
theorem resultRegisters : Obligations.ResultRegisters := by
  unfold Obligations.ResultRegisters
  refine fun s w => ⟨fun hb => ?_, fun p hp => ?_⟩
  · have hread {off : Offset} {r : Reg} (hs : served off 4 = true) (hr : regAt off = r) := memRead_of_idle hs hr hb
    exact ⟨hread (r := .res0) rfl rfl, hread (r := .res1) rfl rfl, hread (r := .metBij) rfl rfl,
      hread (r := .metNl) rfl rfl, hread (r := .metSac) rfl rfl, hread (r := .metDu) rfl rfl,
      hread (r := .metLb) rfl rfl, hread (r := .metDeg) rfl rfl, hread (r := .metFp) rfl rfl,
      regValue .sconst s, hread rfl rfl, regValue_sconst_toNat s⟩
  · obtain ⟨⟨off, r, n⟩, hq, rfl⟩ : ∃ q ∈ resultRegs, (q.1, q.2.2) = p := List.mem_map.mp hp
    obtain ⟨hs, hr, hrou, hig, hbits⟩ := resultRegs_spec _ hq
    refine ⟨fun hb => ⟨_, ?_, memRead_rou_of_busy hs hr hrou hb⟩, memWrite_ignored w s hs hr hig⟩
    rw [BitVec.toNat_and]
    exact Nat.and_lt_two_pow _ hbits

/-! ### STATUS and CTRL (10_state.md R18, R19) -/

/-- A STATUS word is its flags in bits 7:0 and ERR above them. -/
theorem getLsbD_statusWord (s : State) (k : Nat) : (statusWord s).getLsbD k =
    if k < 8 then [s.busy, s.done, s.lock, s.halt, s.busyerr, s.cfgerr, false, false].getD k false
    else s.err.getLsbD (k - 8) := by
  simp only [statusWord, flagBit, BitVec.getLsbD_append]
  by_cases hk : k < 8
  · interval_cases k <;> simp
  · obtain ⟨m, rfl⟩ := Nat.exists_eq_add_of_le (not_lt.mp hk)
    by_cases hm : m < 4
    · simp [hm]
      omega
    · have herr : s.err.getLsbD m = false := BitVec.getLsbD_of_ge _ _ (by omega)
      simp [hm, herr]

/-- A CTRL word is IE in bit 2. -/
theorem getLsbD_ctrlWord (s : State) (k : Nat) : (ctrlWord s).getLsbD k = (k == 2 && s.ie) := by
  simp only [ctrlWord, flagBit, BitVec.getLsbD_append]
  by_cases hk : k < 3
  · interval_cases k <;> simp
  · have hne : k ≠ 2 := by omega
    have hlow : ¬ k < 2 := by omega
    have hflag : ¬ k - 2 < 1 := by omega
    simp [hne, hlow, hflag]

/-- Settles O52: both registers are not ROU, and each bit of the two words is read off their layout. -/
theorem statusAndControlLayout : Obligations.StatusAndControlLayout := by
  unfold Obligations.StatusAndControlLayout
  have hs (s : State) := getLsbD_statusWord s
  have hc (s : State) := getLsbD_ctrlWord s
  refine fun s w => ⟨statusWord s, ctrlWord s, memRead_status s, memRead_eq_regValue (r := .ctrl) s rfl rfl rfl,
    memWrite_ignored (r := .status) w s rfl rfl rfl, hs s 0, hs s 1, hs s 2, hs s 3, hs s 4, hs s 5, ?_, ?_, ?_, hc s 2,
    ?_, ?_⟩ <;> refine BitVec.eq_of_getLsbD_eq fun j hj => ?_ <;> simp only [BitVec.getLsbD_extractLsb', hj, hs, hc]
  · interval_cases j <;> rfl
  · simp
  · have herr : s.err.getLsbD (12 + j - 8) = false := BitVec.getLsbD_of_ge _ _ (by omega)
    have hhigh : ¬ 12 + j < 8 := by omega
    rw [if_neg hhigh, herr]
    simp
  · interval_cases j <;> rfl
  · have hne : 3 + j ≠ 2 := by omega
    simp [hne]

/-! ### The state after a reset (70_reset_and_hazards.md section 1) -/

/-- Settles O55: the values of the reset state, read through the window; MOD and SEED are unlocked. -/
theorem stateAfterReset : Obligations.StateAfterReset := by
  unfold Obligations.StateAfterReset
  refine ⟨rfl, rfl, rfl, rfl, rfl, rfl, rfl, rfl, rfl, fun w => ⟨?_, ?_⟩⟩
  · rw [memWrite_mod, writeReg_rwl_of_unlocked w rfl rfl rfl]
    rfl
  · rw [memWrite_eq_writeReg (r := .seed) w _ rfl rfl, writeReg_rwl_of_unlocked w rfl rfl rfl]
    rfl

end Sys2Proof.Machine

end

section
/-! PROOFS. Turns and steps (20_memory.md section 5; 40_command.md; 70_reset_and_hazards.md). -/

namespace Sys2Proof.Machine

/-! ### Who has the turn (20_memory.md R51) -/

/-- With the schedule used up and a command pending, the engine has the turn. -/
theorem step_of_busy {s : State} (hu : s.turns = []) (hb : s.busy = true) : step s = engineTurn s := by
  simp only [step, nextTurn, hu, hb, if_true, takeTurn]

/-- With the schedule used up and no command pending, the host has the turn. -/
theorem step_of_idle {s : State} (hu : s.turns = []) (hb : s.busy = false) : step s = hostTurn s := by
  simp only [step, nextTurn, hu, hb, Bool.false_eq_true, if_false, takeTurn]

/-- The head of the schedule has the turn, and is taken off it. -/
theorem step_of_cons {s : State} {u : Turn} {us : List Turn} (hu : s.turns = u :: us) :
    step s = takeTurn u (setTurns us s) := by
  simp only [step, nextTurn, hu]

/-- Whoever has the turn, the state it is taken in differs in the schedule alone. -/
theorem nextTurn_eq_setTurns (s : State) : ∃ us, (nextTurn s).2 = setTurns us s := by
  cases hu : s.turns with
  | nil =>
    have hs : setTurns s.turns s = s := rfl
    exact ⟨s.turns, by rw [hs, nextTurn, hu]⟩
  | cons u us => exact ⟨us, by simp only [nextTurn, hu]⟩

/-- A step is a turn, taken in a state that differs in the schedule alone. -/
theorem step_eq_takeTurn (s : State) : ∃ us, step s = takeTurn (nextTurn s).1 (setTurns us s) := by
  obtain ⟨us, hus⟩ := nextTurn_eq_setTurns s
  exact ⟨us, by rw [step, hus]⟩

/-! ### The engine's step (40_command.md R71) -/

/-- Placing a word makes it the accepted command, with the engine's turn in front of the schedule. -/
theorem step_withPending (w : Word) (s : State) : step (withPending w s) = engineTurn (accept w s) := by
  cases hu : s.turns with
  | nil =>
    simp only [withPending, hu]
    exact step_of_busy (s := accept w s) hu rfl
  | cons u us =>
    have hturns : setTurns (u :: us) (accept w s) = accept w s := by rw [← hu]; rfl
    simp only [withPending, hu]
    exact (step_of_cons (u := .engine) (us := u :: us) rfl).trans (congrArg engineTurn hturns)

/-- Settles O5: a step in which the engine has the turn is the engine's turn, which runs the decoded command or reports
the illegal word. -/
theorem engineStepRunsTheDecodedCommand : Obligations.EngineStepRunsTheDecodedCommand := by
  unfold Obligations.EngineStepRunsTheDecodedCommand
  refine ⟨fun s i us hb hd => ⟨fun hu => ?_, fun hu => ?_⟩, fun s e us hb hd => ⟨fun hu => ?_, fun hu => ?_⟩,
    fun s i => ?_⟩
  · rw [step_of_busy hu hb, engineTurn_of_decode_ok hb hd]
  · rw [step_of_cons hu]
    exact engineTurn_of_decode_ok (s := setTurns us s) hb hd
  · rw [step_of_busy hu hb, engineTurn_of_decode_error hb hd]
    rfl
  · rw [step_of_cons hu]
    exact engineTurn_of_decode_error (s := setTurns us s) hb hd
  · have hword : BitVec.ofNat 32 ((encode i).toNat % 2 ^ 32) = encode i := by
      rw [Nat.mod_eq_of_lt (encode i).isLt, BitVec.ofNat_toNat, BitVec.setWidth_eq]
    rw [State.withFetchWord, hword, step_withPending]
    exact engineTurn_of_decode_ok (accept_busy _ s) (decode_encode i)

/-! ### Completion (40_command.md section 2) -/

/-- Every command completes, from its body or from the operand error. -/
theorem exec_eq_finish (i : Instr) (s : State) :
    exec i s = .next (finish (bodyOf i s)) ∨ exec i s = .next (finish (setErr .operand s)) := by
  rw [exec_eq_complete]
  cases hok : operandsOk (form i) s
  · exact .inr (complete_bad hok)
  · exact .inl (complete_ok hok)

/-- Settles O9: a completion is the end of a completion after the body, which writes none of these fields, or after the
operand error, which writes ERR alone. -/
theorem everyCommandCompletes : Obligations.EveryCommandCompletes := by
  unfold Obligations.EveryCommandCompletes
  intro i s
  obtain he | he := exec_eq_finish i s
  · obtain ⟨hcmd, hopa, hopb, hmlo, hseed, hie, hlock, hberr, hcerr, hturns, hhost, htrace⟩ := bodyOf_frame i s
    exact ⟨_, he, rfl, rfl, hlock, hcmd, hopa, hopb, hmlo, hseed, hie, hberr, hcerr, hturns, hhost, htrace⟩
  · exact ⟨_, he, rfl, rfl, rfl, rfl, rfl, rfl, rfl, rfl, rfl, rfl, rfl, rfl, rfl, rfl⟩

/-- The engine's turn answers a next state, in which no command is pending. -/
theorem exists_engineTurn (s : State) : ∃ t, engineTurn s = .next t ∧ t.busy = false := by
  cases hb : s.busy
  · exact ⟨s, engineTurn_of_idle hb, hb⟩
  · cases hd : decode s.cmd with
    | ok i =>
      obtain ⟨t, ht, hidle, -⟩ := everyCommandCompletes i s
      exact ⟨t, (engineTurn_of_decode_ok hb hd).trans ht, hidle⟩
    | error e => exact ⟨_, engineTurn_of_decode_error hb hd, rfl⟩

/-! ### The host's turn (30_encoding.md R65) -/

theorem hostTurn_nil {s : State} (h : s.host = []) : hostTurn s = .next s := by
  simp only [hostTurn, h]

theorem hostTurn_waitIrq {s : State} {rest : List HostStmt} (h : s.host = .waitIrq :: rest) :
    hostTurn s = .next (if irq s then setHost rest s else s) := by
  simp only [hostTurn, h]

/-- One turn of `poll` is one STATUS read, and the statement stays while BUSY = 1. -/
theorem hostTurn_poll {s : State} {rest : List HostStmt} (h : s.host = .poll :: rest) :
    hostTurn s = .next (setHost (if s.busy then .poll :: rest else rest)
      (record (.readBack 0x008 (statusWord s)) s)) := by
  have hbusy : (statusWord s).getLsbD 0 = s.busy := getLsbD_statusWord s 0
  have hoff : offsetOf .status = 0x008 := rfl
  simp only [hostTurn, h, hostRead, hoff, memRead_status, hbusy]

/-- A served read statement reads its register and is done. -/
theorem hostRead_served {off : Offset} {n : Nat} {s : State} (rest : List HostStmt) (hs : served off n = true) :
    hostRead off n rest s =
      .next (setHost rest (record (.readBack off (readReg (regAt off) s).1) (readReg (regAt off) s).2)) := by
  simp only [hostRead, memRead_served hs]

/-- A served write statement writes its register and is done. -/
theorem hostWrite_served {off : Offset} {n : Nat} {s : State} (w : Word) (rest : List HostStmt)
    (hs : served off n = true) :
    hostWrite off n w rest s = .next (setHost rest (record (.wrote off w) (writeReg (regAt off) w s))) := by
  simp only [hostWrite, memWrite_served hs]

theorem transaction_wf_eq_served (off : Offset) (n : Nat) : Transaction.wf off n = served off n := by
  rw [Bool.eq_iff_iff, served_iff]
  simp [Transaction.wf]

/-- The fields outside the block, which no operation of the block writes: the schedule, the statements and the trace. -/
structure SameHostSide (s t : State) : Prop where
  turns : t.turns = s.turns
  host : t.host = s.host
  trace : t.trace = s.trace

theorem storeReg_hostSide (r : Reg) (w : Word) (s : State) : SameHostSide s (storeReg r w s) := by
  cases r <;> exact ⟨rfl, rfl, rfl⟩

theorem cmdWrite_hostSide (w : Word) (s : State) : SameHostSide s (cmdWrite w s) := by
  obtain ⟨-, he⟩ | ⟨-, -, he⟩ | ⟨-, -, he⟩ := cmdWrite_cases w s <;> rw [he] <;> exact ⟨rfl, rfl, rfl⟩

theorem ctrlWrite_hostSide (w : Word) (s : State) : SameHostSide s (ctrlWrite w s) := by
  obtain ⟨-, he⟩ | ⟨-, -, he⟩ | ⟨-, -, he⟩ := ctrlWrite_cases w s <;> rw [he] <;> exact ⟨rfl, rfl, rfl⟩

/-- A host's write to a register writes the block alone. -/
theorem writeReg_hostSide (r : Reg) (w : Word) (s : State) : SameHostSide s (writeReg r w s) := by
  obtain he | ⟨-, he⟩ | he | ⟨-, he⟩ | ⟨-, -, he⟩ | ⟨-, -, he⟩ | ⟨-, -, he⟩ := writeReg_cases r w s <;> rw [he]
  · exact ⟨rfl, rfl, rfl⟩
  · exact ctrlWrite_hostSide w s
  · exact cmdWrite_hostSide w s
  · exact ⟨rfl, rfl, rfl⟩
  · exact ⟨rfl, rfl, rfl⟩
  · exact storeReg_hostSide r w s
  · exact storeReg_hostSide r w s

/-- A well-formed statement answers a next state. -/
theorem exists_hostTurn_of_wf {s : State} {h : HostStmt} {rest : List HostStmt} (hh : s.host = h :: rest)
    (hwf : HostStmt.wf h = true) : ∃ t, hostTurn s = .next t := by
  cases h with
  | read off n =>
    rw [HostStmt.wf, transaction_wf_eq_served] at hwf
    exact ⟨_, (hostTurn_read hh).trans (hostRead_served rest hwf)⟩
  | write off n w =>
    rw [HostStmt.wf, transaction_wf_eq_served] at hwf
    exact ⟨_, (hostTurn_write hh).trans (hostWrite_served w rest hwf)⟩
  | poll => exact ⟨_, hostTurn_poll hh⟩
  | waitIrq => exact ⟨_, hostTurn_waitIrq hh⟩

/-- A statement that is not well formed is an unserved transaction, and faults. -/
theorem exists_hostTurn_fault {s : State} {h : HostStmt} {rest : List HostStmt} (hh : s.host = h :: rest)
    (hwf : HostStmt.wf h = false) : ∃ f, hostTurn s = .fault f := by
  cases h with
  | read off n =>
    rw [HostStmt.wf, transaction_wf_eq_served] at hwf
    exact ⟨_, (hostTurn_read hh).trans (hostRead_unserved rest hwf)⟩
  | write off n w =>
    rw [HostStmt.wf, transaction_wf_eq_served] at hwf
    exact ⟨_, (hostTurn_write hh).trans (hostWrite_unserved w rest hwf)⟩
  | poll => cases hwf
  | waitIrq => cases hwf

/-- The host's turn answers a next state, or its next statement is not well formed and it faults. -/
theorem hostTurn_next_or_fault (s : State) : (∃ t, hostTurn s = .next t) ∨
    ((∃ h rest, s.host = h :: rest ∧ HostStmt.wf h = false) ∧ ∃ f, hostTurn s = .fault f) := by
  cases hh : s.host with
  | nil => exact .inl ⟨s, hostTurn_nil hh⟩
  | cons h rest =>
    cases hwf : HostStmt.wf h
    · exact .inr ⟨⟨h, rest, rfl, hwf⟩, exists_hostTurn_fault hh hwf⟩
    · exact .inl (exists_hostTurn_of_wf hh hwf)

/-- A turn answers a next state, or it is the host's turn at a statement that is not well formed, and faults. -/
theorem takeTurn_next_or_fault (u : Turn) (s : State) : (∃ t, takeTurn u s = .next t) ∨
    (u = .host ∧ (∃ h rest, s.host = h :: rest ∧ HostStmt.wf h = false) ∧ ∃ f, takeTurn u s = .fault f) := by
  cases u with
  | engine =>
    obtain ⟨t, ht, -⟩ := exists_engineTurn s
    exact .inl ⟨t, ht⟩
  | host => exact (hostTurn_next_or_fault s).imp_right fun h => ⟨rfl, h⟩
  | rst => exact .inl ⟨_, rfl⟩

/-- Settles O60: of the agents' turns only the host's can fail to answer a next state, and it faults exactly at a statement
that is not well formed. -/
theorem onlyUnservedTransactionsStopARun : Obligations.OnlyUnservedTransactionsStopARun := by
  unfold Obligations.OnlyUnservedTransactionsStopARun
  intro s
  obtain ⟨us, hstep⟩ := step_eq_takeTurn s
  rw [hstep]
  obtain ⟨t, ht⟩ | ⟨hhost, hbad, f, hf⟩ := takeTurn_next_or_fault (nextTurn s).1 (setTurns us s)
  · rw [ht]
    refine ⟨nofun, iff_of_false nofun ?_⟩
    rintro ⟨hhost, h, rest, hh, hwf⟩
    obtain ⟨f, hf⟩ := exists_hostTurn_fault (s := setTurns us s) hh hwf
    rw [hhost] at ht
    cases hf.symm.trans ht
  · rw [hf]
    exact ⟨nofun, iff_of_true ⟨f, rfl⟩ ⟨hhost, hbad⟩⟩

/-- Settles O53: each statement's turn is its transaction, or a wait; the expansions are read off `pseudo`. -/
theorem hostStatementsMakeTheirTransactions : Obligations.HostStatementsMakeTheirTransactions := by
  unfold Obligations.HostStatementsMakeTheirTransactions
  refine ⟨fun s rest => ⟨fun off h4 hh => ?_, fun off w h4 hh => ?_, fun hh hb => ?_, fun hh hb => ?_, fun hh hi => ?_,
    fun hh hi => ?_⟩, fun a b => ⟨?_, ?_, rfl, ?_, ?_, rfl⟩, rfl, rfl, rfl⟩
  · have hs : served off 4 = true := (served_iff off 4).mpr ⟨rfl, h4⟩
    refine ⟨_, _, memRead_served hs, ?_⟩
    rw [hostTurn_read hh, hostRead_served rest hs]
    obtain he | ⟨-, -, he⟩ := readReg_state (regAt off) s <;> rw [he] <;> rfl
  · have hs : served off 4 = true := (served_iff off 4).mpr ⟨rfl, h4⟩
    rw [hostTurn_write hh, hostWrite_served w rest hs, memWrite_served hs, ← (writeReg_hostSide (regAt off) w s).trace]
    rfl
  · rw [hostTurn_poll hh, if_pos hb, ← hh]
    rfl
  · rw [hostTurn_poll hh, if_neg (Bool.eq_false_iff.mp hb)]
    rfl
  · rw [hostTurn_waitIrq hh, hi]
    rfl
  · rw [hostTurn_waitIrq hh, hi]
    rfl
  all_goals
    intro i hi
    fin_cases hi <;> rfl

end Sys2Proof.Machine

end

section
/-! PROOFS. Runs (40_command.md sections 2, 4; 20_memory.md section 5) and resets (70_reset_and_hazards.md section 1). -/

namespace Sys2Proof.Machine

/-! ### A run that has ended (40_command.md R79) -/

/-- The host's turn with no transaction left drops a wait or does nothing. -/
theorem hostTurn_of_no_transaction {s : State} (h : s.host.all (fun h => !h.isTransaction) = true) :
    ∃ hs, hostTurn s = .next (setHost hs s) ∧ hs.all (fun h => !h.isTransaction) = true := by
  have hsame : setHost s.host s = s := rfl
  cases hh : s.host with
  | nil => exact ⟨s.host, by rw [hsame, hostTurn_nil hh], h⟩
  | cons stmt rest =>
    rw [hh, List.all_cons, Bool.and_eq_true] at h
    obtain ⟨hstmt, hrest⟩ := h
    cases stmt with
    | waitIrq =>
      rw [hostTurn_waitIrq hh]
      cases irq s
      · exact ⟨s.host, by rw [hsame]; rfl, by rw [hh]; exact hrest⟩
      · exact ⟨rest, rfl, hrest⟩
    | _ => cases hstmt

theorem finished_iff (s : State) :
    s.finished = true ↔ s.host.all (fun h => !h.isTransaction) = true ∧ s.busy = false := by
  rw [State.finished, Bool.and_eq_true, Bool.not_eq_true']

/-- Settles O6: the engine's turn does nothing with BUSY = 0, nor the host's with no statement left; once no command is
pending and no statement makes a transaction, neither agent can do more than drop a wait. -/
theorem stepsWithoutCompletion : Obligations.StepsWithoutCompletion := by
  unfold Obligations.StepsWithoutCompletion
  refine ⟨fun s us => ⟨fun hb hu => ?_, fun hb hu => step_of_idle hu hb, fun hu => step_of_cons hu, fun hh hu => ?_⟩,
    fun s hfin hrst => ?_⟩
  · rw [step_of_cons hu]
    exact engineTurn_of_idle (s := setTurns us s) hb
  · rw [step_of_cons hu]
    exact hostTurn_nil (s := setTurns us s) hh
  · obtain ⟨us, hstep⟩ := step_eq_takeTurn s
    obtain ⟨hhost, hb⟩ := (finished_iff s).mp hfin
    rw [hstep]
    cases hturn : (nextTurn s).1 with
    | engine => exact ⟨us, s.host, engineTurn_of_idle (s := setTurns us s) hb, (finished_iff _).mpr ⟨hhost, hb⟩⟩
    | host =>
      obtain ⟨hs, ht, hall⟩ := hostTurn_of_no_transaction (s := setTurns us s) hhost
      exact ⟨us, hs, ht, (finished_iff _).mpr ⟨hall, hb⟩⟩
    | rst => exact absurd hturn hrst

/-! ### A pending command ends (40_command.md section 2) -/

/-- The host's turn keeps the schedule, and the statements left are among those before. -/
theorem hostTurn_schedule {s t : State} (h : hostTurn s = .next t) : t.turns = s.turns ∧ t.host ⊆ s.host := by
  have hturns : t.turns = s.turns := by
    obtain rfl | ⟨_, rfl⟩ | ⟨_, _, rfl⟩ | ⟨_, _, -, rfl⟩ | ⟨off, n, w, rest, -, -, rfl⟩ := hostTurn_cases h
    · rfl
    · rfl
    · rfl
    · rfl
    · exact (writeReg_hostSide _ w s).turns
  refine ⟨hturns, ?_⟩
  cases hh : s.host with
  | nil =>
    cases (hostTurn_nil hh).symm.trans h
    rw [hh]
    exact List.Subset.refl []
  | cons stmt rest =>
    have hrest : rest ⊆ stmt :: rest := List.subset_cons_self stmt rest
    cases stmt with
    | read off n =>
      obtain ⟨-, rfl⟩ := hostRead_cases ((hostTurn_read hh).symm.trans h)
      exact hrest
    | write off n w =>
      obtain ⟨-, rfl⟩ := hostWrite_cases ((hostTurn_write hh).symm.trans h)
      exact hrest
    | poll =>
      cases (hostTurn_poll hh).symm.trans h
      rw [setHost_host]
      split
      · exact List.Subset.refl _
      · exact hrest
    | waitIrq =>
      cases (hostTurn_waitIrq hh).symm.trans h
      split
      · exact hrest
      · rw [hh]
        exact List.Subset.refl _

/-- A run goes on after its first step. -/
theorem run_succ {s t : State} (k : Nat) (h : step s = .next t) : core.run (k + 1) s = core.run k t := by
  have hcore : core.step s = .next t := h
  simp only [Host.Core.run, hcore]

/-- Settles O10, by induction on the schedule: the engine's turn completes, a reset discards, and the host's turn leaves a
shorter schedule and no new statement. With the schedule used up the engine has the turn. -/
theorem pendingCommandEnds : Obligations.PendingCommandEnds := by
  unfold Obligations.PendingCommandEnds
  intro s hb hwf
  have hone {s t : State} (n : Nat) (hst : step s = .next t) (hidle : t.busy = false) :
      ∃ k ≤ n + 1, ∃ t, core.run k s = .next t ∧ t.busy = false :=
    ⟨1, Nat.le_add_left 1 n, t, run_succ 0 hst, hidle⟩
  generalize hu : s.turns = us
  induction us generalizing s with
  | nil =>
    obtain ⟨t, ht, hidle⟩ := exists_engineTurn s
    exact hone 0 ((step_of_busy hu hb).trans ht) hidle
  | cons u us ih =>
    cases u with
    | engine =>
      obtain ⟨t, ht, hidle⟩ := exists_engineTurn (setTurns us s)
      exact hone _ ((step_of_cons hu).trans ht) hidle
    | rst => exact hone _ (step_of_cons hu) (resetBlock_busy _)
    | host =>
      have hnext : ∃ t, hostTurn (setTurns us s) = .next t := by
        obtain ht | ⟨⟨h, rest, hh, hbad⟩, -⟩ := hostTurn_next_or_fault (setTurns us s)
        · exact ht
        · have hmem : h ∈ s.host := by
            rw [show s.host = h :: rest from hh]
            exact List.mem_cons_self
          cases hbad.symm.trans (hwf h hmem)
      obtain ⟨t, ht⟩ := hnext
      have hst : step s = .next t := (step_of_cons hu).trans ht
      obtain ⟨hturns, hsub⟩ := hostTurn_schedule ht
      cases hidle : t.busy
      · exact hone _ hst hidle
      · obtain ⟨k, hk, v, hv, hvidle⟩ := ih t hidle (fun h hh => hwf h (hsub hh)) hturns
        exact ⟨k + 1, Nat.succ_le_succ hk, v, (run_succ k hst).trans hv, hvidle⟩

/-! ### A pending command is undisturbed (20_memory.md R51; 40_command.md R73) -/

/-- `t` differs from `s` in IE, DONE, the sticky flags, ERR and the model's own fields at most. -/
def SameCommand (s t : State) : Prop :=
  ∃ ie done busyerr cfgerr err draws turns host trace,
    t = { s with
      ie := ie, done := done, busyerr := busyerr, cfgerr := cfgerr, err := err, draws := draws, turns := turns
      host := host, trace := trace }

/-- A CTRL write that is no reset changes IE and the flags of the acknowledge alone. -/
theorem ctrlWrite_sameCommand {s : State} {w : Word} (hpend : (ctrlWrite w s).busy = true) :
    SameCommand s (ctrlWrite w s) := by
  obtain ⟨-, he⟩ | ⟨-, -, he⟩ | ⟨-, -, he⟩ := ctrlWrite_cases w s <;> rw [he] at hpend ⊢
  · cases hpend
  · exact ⟨_, _, _, _, _, _, _, _, _, rfl⟩
  · exact ⟨_, _, _, _, _, _, _, _, _, rfl⟩

section
variable {s : State} (hb : s.busy = true)
include hb

/-- While a command is pending no command is accepted. -/
theorem cmdWrite_sameCommand (w : Word) : SameCommand s (cmdWrite w s) := by
  obtain ⟨-, he⟩ | ⟨-, -, he⟩ | ⟨-, hidle, -⟩ := cmdWrite_cases w s
  · rw [he]; exact ⟨_, _, _, _, _, _, _, _, _, rfl⟩
  · rw [he]; exact ⟨_, _, _, _, _, _, _, _, _, rfl⟩
  · cases hb.symm.trans hidle

/-- While a command is pending no write is stored. -/
theorem writeReg_sameCommand {r : Reg} {w : Word} (hpend : (writeReg r w s).busy = true) :
    SameCommand s (writeReg r w s) := by
  obtain he | ⟨-, he⟩ | he | ⟨-, he⟩ | ⟨hidle, -⟩ | ⟨hidle, -⟩ | ⟨hidle, -⟩ := writeReg_cases r w s
  · rw [he]; exact ⟨_, _, _, _, _, _, _, _, _, rfl⟩
  · rw [he] at hpend ⊢; exact ctrlWrite_sameCommand hpend
  · rw [he]; exact cmdWrite_sameCommand hb w
  · rw [he]; exact ⟨_, _, _, _, _, _, _, _, _, rfl⟩
  all_goals cases hb.symm.trans hidle

/-- The host's turn, when the command stays pending. -/
theorem hostTurn_sameCommand {t : State} (h : hostTurn s = .next t) (hpend : t.busy = true) : SameCommand s t := by
  obtain rfl | ⟨_, rfl⟩ | ⟨_, _, rfl⟩ | ⟨_, _, -, rfl⟩ | ⟨off, n, w, rest, -, -, rfl⟩ := hostTurn_cases h
  · exact ⟨_, _, _, _, _, _, _, _, _, rfl⟩
  · exact ⟨_, _, _, _, _, _, _, _, _, rfl⟩
  · exact ⟨_, _, _, _, _, _, _, _, _, rfl⟩
  · exact ⟨_, _, _, _, _, _, _, _, _, rfl⟩
  · obtain ⟨_, _, _, _, _, _, _, _, _, he⟩ := writeReg_sameCommand hb (r := regAt off) (w := w) hpend
    rw [he]
    exact ⟨_, _, _, _, _, _, _, _, _, rfl⟩

end

/-- Settles O11: the engine's turn and a reset end the pending command; the host's turn, when it does not, changes flags and
the model's own fields alone. -/
theorem pendingCommandIsUndisturbed : Obligations.PendingCommandIsUndisturbed := by
  unfold Obligations.PendingCommandIsUndisturbed
  intro s s' hb hst hpend
  obtain ⟨us, he | hh | rfl⟩ := step_cases hst
  · obtain ⟨t, ht, hidle⟩ := exists_engineTurn (setTurns us s)
    cases he.symm.trans ht
    cases hpend.symm.trans hidle
  · obtain ⟨_, _, _, _, _, _, _, _, _, rfl⟩ := hostTurn_sameCommand (s := setTurns us s) hb hh hpend
    exact ⟨rfl, rfl, rfl, rfl, rfl, rfl, rfl, rfl, rfl, rfl, rfl, rfl, rfl, rfl, rfl, rfl, rfl, rfl, rfl⟩
  · cases hpend

/-! ### Resets (70_reset_and_hazards.md R152, R153) -/

/-- Settles O54: either reset is the reset of the block, which writes every field of the record; the other CTRL writes are
those of the rule. -/
theorem bothResetsRestoreEveryField : Obligations.BothResetsRestoreEveryField := by
  unfold Obligations.BothResetsRestoreEveryField
  refine ⟨fun s w hw => ⟨freeTable s.draws, ?_⟩, fun s us hu => ⟨freeTable s.draws, step_of_cons hu⟩, fun s => ?_,
    fun s w hsrst => ⟨fun hack => ?_, fun hack => memWrite_ctrl_ack s hsrst hack⟩⟩
  · rw [memWrite_ctrl, ctrlWrite, if_pos hw]
    rfl
  · rw [memRead_eq_regValue (r := .ctrl) s rfl rfl rfl]
    exact getLsbD_ctrlWord s 0
  · rw [memWrite_ctrl]
    simp only [ctrlWrite, hsrst, hack, Bool.false_eq_true, if_false]
    rfl

end Sys2Proof.Machine

end

section
/-! PROOFS. The transforms of the property evaluator (44_metrics.md R107, R115): eight stages, one per bit of the index,
sum the table against the product of eight kernels; the Walsh sums and NL. -/

namespace Sys2Proof.Machine

/-! ### Sums over the bytes -/

theorem toFinset_allBytes : allBytes.toFinset = Finset.univ :=
  Finset.eq_univ_iff_forall.mpr fun x => List.mem_toFinset.mpr (mem_allBytes x)

/-- A sum over the list of all bytes is the sum over the bytes. -/
theorem sum_map_allBytes {M : Type} [AddCommMonoid M] (f : Byte → M) : (allBytes.map f).sum = ∑ x, f x := by
  rw [← List.sum_toFinset f allBytes_nodup, toFinset_allBytes]

/-- A sum over the bit positions. -/
theorem sum_map_bitPositions {M : Type} [AddCommMonoid M] (f : Nat → M) :
    (bitPositions.map f).sum = ∑ i ∈ Finset.range 8, f i := by
  simp [bitPositions, Finset.sum_range_succ, add_assoc]

/-! ### One stage per bit of the index -/

/-- `m` with bit i set to `b`. -/
def withBit (m : Byte) (i : Nat) (b : Bool) : Byte := if m.getLsbD i = b then m else m ^^^ (1#8 <<< i)

theorem getLsbD_bit {i : Nat} (hi : i < 8) (j : Nat) : (1#8 <<< i).getLsbD j = decide (j = i) := by
  rw [BitVec.getLsbD_shiftLeft, BitVec.getLsbD_one]
  grind

theorem getLsbD_withBit (m : Byte) {i j : Nat} (hi : i < 8) (b : Bool) :
    (withBit m i b).getLsbD j = if j = i then b else m.getLsbD j := by
  rw [withBit]
  by_cases hm : m.getLsbD i = b
  · rw [if_pos hm]
    split
    · rename_i hji
      rw [hji, hm]
    · rfl
  · rw [if_neg hm, BitVec.getLsbD_xor, getLsbD_bit hi]
    by_cases hji : j = i
    · subst hji
      cases b <;> simp_all
    · simp [hji]

section
variable {R : Type} [CommSemiring R] (K : Bool → Bool → R)

/-- One stage of a transform with the 2 × 2 kernel K: entry m becomes the K-weighted sum over the two values of bit i. -/
def stage (i : Nat) (F : Byte → R) (m : Byte) : R :=
  K (m.getLsbD i) false * F (withBit m i false) + K (m.getLsbD i) true * F (withBit m i true)

/-- The first n stages. -/
def stages : Nat → (Byte → R) → Byte → R
  | 0, F => F
  | n + 1, F => stage K n (stages n F)

/-- The kernel of the first n stages: K on the bits below n, equality on the others. -/
def stagesKernel (n : Nat) (m x : Byte) : R :=
  ∏ i ∈ Finset.range 8, if i < n then K (m.getLsbD i) (x.getLsbD i) else if m.getLsbD i = x.getLsbD i then 1 else 0

theorem stagesKernel_zero (m x : Byte) : stagesKernel K 0 m x = if m = x then 1 else 0 := by
  have heq : (∀ i ∈ Finset.range 8, m.getLsbD i = x.getLsbD i) ↔ m = x :=
    ⟨fun h => BitVec.eq_of_getLsbD_eq fun i hi => h i (Finset.mem_range.mpr hi), fun h _ _ => by rw [h]⟩
  simp only [stagesKernel, Nat.not_lt_zero, if_false, Finset.prod_ite_zero, Finset.prod_const_one, heq]

/-- Setting bit n leaves the factors of the other bits, and makes the factor of bit n an equality with the bit set. -/
theorem stagesKernel_withBit {n : Nat} (hn : n < 8) (m x : Byte) (b : Bool) : stagesKernel K n (withBit m n b) x =
    (if b = x.getLsbD n then 1 else 0) * ∏ i ∈ (Finset.range 8).erase n,
      if i < n + 1 then K (m.getLsbD i) (x.getLsbD i) else if m.getLsbD i = x.getLsbD i then 1 else 0 := by
  rw [stagesKernel, ← Finset.mul_prod_erase _ _ (Finset.mem_range.mpr hn), if_neg (lt_irrefl n),
    getLsbD_withBit m hn b, if_pos rfl]
  refine congrArg _ (Finset.prod_congr rfl fun i hi => ?_)
  have hin : i ≠ n := Finset.ne_of_mem_erase hi
  rw [getLsbD_withBit m hn b, if_neg hin]
  refine if_congr ?_ rfl rfl
  omega

/-- One more stage puts K in the place of the equality of bit n. -/
theorem stagesKernel_succ {n : Nat} (hn : n < 8) (m x : Byte) :
    stagesKernel K (n + 1) m x = stage K n (fun y => stagesKernel K n y x) m := by
  rw [stage, stagesKernel_withBit K hn, stagesKernel_withBit K hn, stagesKernel,
    ← Finset.mul_prod_erase _ _ (Finset.mem_range.mpr hn), if_pos (Nat.lt_succ_self n)]
  cases x.getLsbD n <;> simp

/-- The stages sum the table against their kernel. -/
theorem stages_eq_sum (F : Byte → R) {n : Nat} (hn : n ≤ 8) (m : Byte) :
    stages K n F m = ∑ x, stagesKernel K n m x * F x := by
  induction n generalizing m with
  | zero => simp [stages, stagesKernel_zero]
  | succ n ih =>
    simp only [stages, stage, ih (by omega), stagesKernel_succ K hn, Finset.mul_sum, ← Finset.sum_add_distrib, add_mul,
      mul_assoc]

/-- The eight stages, with one factor for each bit of the index. -/
theorem stages_eight (F : Byte → R) (m : Byte) :
    stages K 8 F m = ∑ x, (∏ i ∈ Finset.range 8, K (m.getLsbD i) (x.getLsbD i)) * F x := by
  rw [stages_eq_sum K F le_rfl]
  refine Finset.sum_congr rfl fun x _ => congrArg (· * F x) (Finset.prod_congr rfl fun i hi => ?_)
  rw [if_pos (Finset.mem_range.mp hi)]

end

/-! ### Signs and parities (00_scope.md R9) -/

theorem popcount_eq_bitWeight (v : Byte) : popcount v = bitWeight v := by
  simp only [popcount, bitWeight, bitPositions, List.countP_cons, List.countP_nil, Finset.card_filter,
    Finset.sum_range_succ, Finset.sum_range_zero]
  ring

theorem sign_parity_eq_pow (v : Byte) : sign (parity v) = (-1) ^ bitWeight v := by
  rw [parity, popcount_eq_bitWeight]
  obtain h | h := Nat.even_or_odd (bitWeight v)
  · rw [h.neg_one_pow, Nat.even_iff.mp h]
    rfl
  · rw [h.neg_one_pow, Nat.odd_iff.mp h]
    rfl

theorem sign_parity_eq_prod (v : Byte) : sign (parity v) = ∏ i ∈ Finset.range 8, sign (v.getLsbD i) := by
  rw [sign_parity_eq_pow, bitWeight]
  simp only [sign, Finset.prod_ite, Finset.prod_const, one_pow, mul_one]

theorem sign_xor (a b : Bool) : sign (a ^^ b) = sign a * sign b := by
  cases a <;> cases b <;> rfl

theorem sign_emod_two (b : Bool) : sign b % 2 = 1 := by
  cases b <;> rfl

theorem natAbs_sign (b : Bool) : (sign b).natAbs = 1 := by
  cases b <;> rfl

/-- A sum of 256 signs is even. -/
theorem sum_sign_emod_two (g : Byte → Bool) : (∑ x, sign (g x)) % 2 = 0 := by
  rw [Finset.sum_int_mod]
  simp only [sign_emod_two, Finset.sum_const, Finset.card_univ, card_byte]
  rfl

/-- A sum of 256 signs is 256 at most. -/
theorem natAbs_sum_sign_le (g : Byte → Bool) : (∑ x, sign (g x)).natAbs ≤ 256 := by
  calc (∑ x, sign (g x)).natAbs ≤ ∑ x : Byte, (sign (g x)).natAbs := Int.natAbs_sum_le _ _
    _ = 256 := by simp only [natAbs_sign, Finset.sum_const, Finset.card_univ, card_byte]; rfl

/-! ### The Walsh-Hadamard transform (44_metrics.md R107) -/

/-- The kernel of the butterfly: (-1)^(ab). -/
def walshKernel (a b : Bool) : Int := sign (a && b)

theorem and_bit_eq_zero_iff (j : Byte) {i : Nat} (hi : i < 8) : j &&& (1#8 <<< i) = 0 ↔ j.getLsbD i = false := by
  constructor
  · intro h
    have hbit := congrArg (fun v => v.getLsbD i) h
    simpa [getLsbD_bit hi] using hbit
  · intro h
    refine BitVec.eq_of_getLsbD_eq fun k _ => ?_
    rw [BitVec.getLsbD_and, getLsbD_bit hi]
    by_cases hk : k = i <;> simp [hk, h]

/-- Where a bit is 0, adding it is setting it. -/
theorem add_bit_eq_xor (j : Byte) {i : Nat} (hi : i < 8) (h : j.getLsbD i = false) :
    j + (1#8 <<< i) = j ^^^ (1#8 <<< i) := by
  rw [BitVec.add_eq_or_of_and_eq_zero _ _ ((and_bit_eq_zero_iff j hi).mpr h)]
  refine BitVec.eq_of_getLsbD_eq fun k _ => ?_
  rw [BitVec.getLsbD_or, BitVec.getLsbD_xor, getLsbD_bit hi]
  by_cases hk : k = i <;> simp [hk, h]

/-- Where a bit is 1, subtracting it is clearing it. -/
theorem sub_bit_eq_xor (j : Byte) {i : Nat} (hi : i < 8) (h : j.getLsbD i = true) :
    j - (1#8 <<< i) = j ^^^ (1#8 <<< i) := by
  have hclear : (j ^^^ (1#8 <<< i)).getLsbD i = false := by
    rw [BitVec.getLsbD_xor, getLsbD_bit hi, h]
    simp
  rw [sub_eq_iff_eq_add, add_bit_eq_xor _ hi hclear, xor_xor_self]

theorem at_butterflyStage_eq_stage {i : Nat} (hi : i < 8) (f : Indexed Int) :
    Indexed.at (butterflyStage (1#8 <<< i) f) = stage walshKernel i (Indexed.at f) := by
  funext j
  rw [at_butterflyStage, stage, if_congr (and_bit_eq_zero_iff j hi) rfl rfl]
  cases hj : j.getLsbD i
  · rw [if_pos rfl, add_bit_eq_xor j hi hj]
    simp [withBit, hj, walshKernel, sign]
  · rw [if_neg (nofun : ¬ true = false), sub_bit_eq_xor j hi hj]
    simp [withBit, hj, walshKernel, sign, sub_eq_add_neg]

/-- The eight strides are the eight bits. -/
theorem at_walshHadamard (f : Indexed Int) : Indexed.at (walshHadamard f) = stages walshKernel 8 (Indexed.at f) := by
  have hst (i : Nat) (hi : i < 8) (g : Indexed Int) := at_butterflyStage_eq_stage hi g
  have hw : walshHadamard f = (List.range 8).foldl (fun f i => butterflyStage (1#8 <<< i) f) f := rfl
  have hfold (n : Nat) (hn : n ≤ 8) :
      Indexed.at ((List.range n).foldl (fun f i => butterflyStage (1#8 <<< i) f) f) =
        stages walshKernel n (Indexed.at f) := by
    induction n with
    | zero => rfl
    | succ n ih =>
      rw [List.range_succ, List.foldl_append, List.foldl_cons, List.foldl_nil, hst n hn, ih (by omega), stages]
  rw [hw, hfold 8 le_rfl]

/-- The butterfly's coefficient at a is the sum of the table's signs against those of a·x. -/
theorem at_walshHadamard_signTable (t : Table) (u a : Byte) : Indexed.at (walshHadamard (signTable t u)) a =
    ∑ x, sign (parity (Indexed.at t x &&& u) ^^ parity (a &&& x)) := by
  rw [at_walshHadamard, stages_eight]
  refine Finset.sum_congr rfl fun x _ => ?_
  rw [at_signTable, sign_xor, sign_parity_eq_prod (a &&& x), mul_comm]
  simp only [walshKernel, BitVec.getLsbD_and]

/-! ### The greatest of a list -/

theorem maxOf_cons (n : Nat) (l : List Nat) : maxOf (n :: l) = max n (maxOf l) := by
  rw [maxOf, List.foldl_cons, max_comm, List.foldl_assoc, maxOf]

/-- The greatest of a nonempty list is in it and bounds it. -/
theorem isGreatest_maxOf {l : List Nat} (hl : l ≠ []) : IsGreatest {n | n ∈ l} (maxOf l) := by
  induction l with
  | nil => exact absurd rfl hl
  | cons n l ih =>
    rw [maxOf_cons]
    cases l with
    | nil => simp [IsGreatest, maxOf, upperBounds]
    | cons k l =>
      have h := (isGreatest_singleton (a := n)).union (ih (List.cons_ne_nil k l))
      simpa [Set.union_def] using h

theorem maxOf_le {l : List Nat} {b : Nat} (h : ∀ n ∈ l, n ≤ b) : maxOf l ≤ b := by
  induction l with
  | nil => exact Nat.zero_le b
  | cons n l ih =>
    obtain ⟨hn, hl⟩ := List.forall_mem_cons.mp h
    rw [maxOf_cons]
    exact max_le hn (ih hl)

theorem isGreatest_maxOf_allBytes (f : Byte → Nat) : IsGreatest (Set.range f) (maxOf (allBytes.map f)) := by
  have h := isGreatest_maxOf (l := allBytes.map f) (by simp [allBytes])
  simpa [mem_allBytes, Set.range] using h

theorem mem_nonzeroBytes (x : Byte) : x ∈ nonzeroBytes ↔ x ≠ 0 := by
  have hall : allBytes = 0 :: nonzeroBytes := rfl
  have hzero : (0 : Byte) ∉ nonzeroBytes := (List.nodup_cons.mp (hall ▸ allBytes_nodup)).1
  exact ⟨fun hx h0 => hzero (h0 ▸ hx), (List.mem_cons.mp (hall ▸ mem_allBytes x)).resolve_left⟩

theorem isGreatest_maxOf_nonzeroBytes (f : Byte → Nat) :
    IsGreatest (f '' {x | x ≠ 0}) (maxOf (nonzeroBytes.map f)) := by
  have hne : nonzeroBytes.map f ≠ [] := by
    rw [ne_eq, List.map_eq_nil_iff]
    exact List.ne_nil_of_mem ((mem_nonzeroBytes 1).mpr (by decide))
  have h := isGreatest_maxOf hne
  simpa [mem_nonzeroBytes, Set.image] using h

/-! ### NL (44_metrics.md R107) -/

/-- The least of 128 - f over a list is 128 minus the greatest of f. -/
theorem foldl_min_eq_sub_foldl_max (f : Byte → Nat) (l : List Byte) (n : Nat) :
    l.foldl (fun best u => min best (128 - (f u : Int))) (128 - (n : Int)) =
      128 - (((l.map f).foldl max n : Nat) : Int) := by
  induction l generalizing n with
  | nil => rfl
  | cons u l ih =>
    have hmin : min (128 - (n : Int)) (128 - (f u : Int)) = 128 - ((max n (f u) : Nat) : Int) := by omega
    rw [List.foldl_cons, hmin, ih, List.map_cons, List.foldl_cons]

theorem metricNl_eq_sub_maxOf (t : Table) :
    metricNl t = 128 - ((maxOf (nonzeroBytes.map fun u => maxWalsh t u / 2) : Nat) : Int) :=
  foldl_min_eq_sub_foldl_max (fun u => maxWalsh t u / 2) nonzeroBytes 0

/-- The greatest coefficient of an output mask is attained and bounds them all. -/
theorem isGreatest_maxWalsh (t : Table) (u : Byte) :
    IsGreatest (Set.range fun a => (Indexed.at (walshHadamard (signTable t u)) a).natAbs) (maxWalsh t u) :=
  isGreatest_maxOf_allBytes _

/-- Settles O32: the stages' kernel is the sign of a·x, each coefficient is a sum of 256 signs, and NL is 128 minus the
greatest half coefficient. -/
theorem butterflyComputesTheWalshSums : Obligations.ButterflyComputesTheWalshSums := by
  unfold Obligations.ButterflyComputesTheWalshSums
  refine ⟨fun t u a => ?_, fun t u a => ?_, fun t => ?_⟩
  · rw [at_walshHadamard_signTable, sum_map_allBytes]
  · rw [at_walshHadamard_signTable]
    exact sum_sign_emod_two fun x => parity (Indexed.at t x &&& u) ^^ parity (a &&& x)
  · obtain ⟨⟨v, hv, hmax⟩, hub⟩ := isGreatest_maxOf_nonzeroBytes fun u => maxWalsh t u / 2
    rw [metricNl_eq_sub_maxOf]
    refine ⟨fun u a hu => ?_, ?_⟩
    · have hw := (isGreatest_maxWalsh t u).2 ⟨a, rfl⟩
      have hm := hub ⟨u, hu, rfl⟩
      simp only at hw hm
      omega
    · obtain ⟨a, ha⟩ := (isGreatest_maxWalsh t v).1
      refine ⟨v, a, hv, ?_⟩
      simp only at ha hmax
      rw [ha, hmax]

end Sys2Proof.Machine

end

section
/-! PROOFS. The seven metrics (44_metrics.md): their formulas, ranges and corner cases, and the metric commands. -/

namespace Sys2Proof.Machine

/-! ### Pairs x, x + d (44_metrics.md R111) -/

/-- A set of bytes closed under adding d ≠ 0 has an even number of elements: it falls into pairs x, x + d. -/
theorem even_card_filter_of_xor {d : Byte} (hd : d ≠ 0) {p : Byte → Prop} [DecidablePred p]
    (h : ∀ x, p x → p (x ^^^ d)) : (Finset.univ.filter p).card % 2 = 0 := by
  have hpair (x : Byte) : x ^^^ d ≠ x := by
    intro he
    have hx := congrArg (x ^^^ ·) he
    simp only [← BitVec.xor_assoc, BitVec.xor_self, BitVec.zero_xor] at hx
    exact hd hx
  rw [← Nat.even_iff, ← ZMod.natCast_eq_zero_iff_even, Finset.cast_card]
  refine Finset.sum_involution (fun x _ => x ^^^ d) (fun _ _ => CharTwo.add_self_eq_zero 1) (fun x _ _ => hpair x)
    (fun x hx => ?_) (fun x _ => ?_)
  · simpa using h x (by simpa using hx)
  · exact xor_xor_self x d

/-- The signs of a nonzero mask cancel: x and x plus a bit of the mask have opposite signs. -/
theorem sum_sign_parity_and_eq_zero {a : Byte} (ha : a ≠ 0) : ∑ x : Byte, sign (parity (a &&& x)) = 0 := by
  obtain ⟨i, hi, hbit⟩ : ∃ i < 8, a.getLsbD i = true := by
    by_contra hno
    push Not at hno
    exact ha (BitVec.eq_of_getLsbD_eq fun i hi => by simpa using hno i hi)
  have hand (x : Byte) : a &&& (x ^^^ (1#8 <<< i)) = (a &&& x) ^^^ (1#8 <<< i) := by
    refine BitVec.eq_of_getLsbD_eq fun k _ => ?_
    simp only [BitVec.getLsbD_and, BitVec.getLsbD_xor, getLsbD_bit hi]
    by_cases hk : k = i <;> simp [hk, hbit]
  have hpar : parity (1#8 <<< i) = true := by
    interval_cases i <;> rfl
  have hflip (x : Byte) : sign (parity (a &&& (x ^^^ (1#8 <<< i)))) = - sign (parity (a &&& x)) := by
    rw [hand, parity_xor, hpar, sign_xor]
    simp [sign]
  refine Finset.sum_involution (fun x _ => x ^^^ (1#8 <<< i)) (fun x _ => by rw [hflip]; ring) (fun x _ hne he => ?_)
    (fun x _ => Finset.mem_univ _) (fun x _ => xor_xor_self x _)
  have hs := hflip x
  rw [he] at hs
  omega

/-! ### SAC (44_metrics.md R109) -/

theorem metricSac_eq_sum (t : Table) : metricSac t =
    ∑ x : Byte, ∑ i ∈ Finset.range 8, bitWeight (Indexed.at t x ^^^ Indexed.at t (x ^^^ (1#8 <<< i))) := by
  simp only [metricSac, sum_map_allBytes, sum_map_bitPositions, popcount_eq_bitWeight]

theorem bitWeight_le (v : Byte) : bitWeight v ≤ 8 :=
  (Finset.card_filter_le _ _).trans_eq (Finset.card_range 8)

theorem metricSac_le (t : Table) : metricSac t ≤ 16384 := by
  rw [metricSac_eq_sum]
  calc _ ≤ ∑ _x : Byte, ∑ _i ∈ Finset.range 8, 8 :=
        Finset.sum_le_sum fun x _ => Finset.sum_le_sum fun i _ => bitWeight_le _
    _ = 16384 := by simp only [Finset.sum_const, Finset.card_univ, card_byte, Finset.card_range]; rfl

/-! ### DU (44_metrics.md R111) -/

theorem differenceCount_eq_bucketSize (t : Table) (dx dy : Byte) : differenceCount t dx dy = bucketSize t dx dy := by
  simp only [differenceCount, countP_allBytes, bucketSize, beq_iff_eq]

/-- The greatest, over the nonzero bytes, of the greatest elements of sets. -/
theorem isGreatest_maxOf_of_isGreatest {S : Byte → Set Nat} {g : Byte → Nat} (h : ∀ a, IsGreatest (S a) (g a)) :
    IsGreatest {n | ∃ a, a ≠ 0 ∧ n ∈ S a} (maxOf (nonzeroBytes.map g)) := by
  obtain ⟨⟨a, ha, hmax⟩, hub⟩ := isGreatest_maxOf_nonzeroBytes g
  refine ⟨⟨a, ha, hmax ▸ (h a).1⟩, ?_⟩
  rintro n ⟨b, hb, hn⟩
  exact ((h b).2 hn).trans (hub ⟨b, hb, rfl⟩)

/-- DU is the greatest bucket of a nonzero input difference. -/
theorem isGreatest_metricDu (t : Table) :
    IsGreatest {n | ∃ dx, dx ≠ 0 ∧ n ∈ Set.range (bucketSize t dx)} (metricDu t) := by
  refine isGreatest_maxOf_of_isGreatest fun dx => ?_
  simp only [differenceCount_eq_bucketSize]
  exact isGreatest_maxOf_allBytes (bucketSize t dx)

theorem bucketSize_le_metricDu (t : Table) {dx : Byte} (dy : Byte) (hdx : dx ≠ 0) : bucketSize t dx dy ≤ metricDu t :=
  (isGreatest_metricDu t).2 ⟨dx, hdx, dy, rfl⟩

theorem exists_bucketSize_eq_metricDu (t : Table) : ∃ dx dy : Byte, dx ≠ 0 ∧ bucketSize t dx dy = metricDu t := by
  obtain ⟨dx, hdx, dy, hdy⟩ := (isGreatest_metricDu t).1
  exact ⟨dx, dy, hdx, hdy⟩

theorem bucketSize_le (t : Table) (dx dy : Byte) : bucketSize t dx dy ≤ 256 :=
  (Finset.card_filter_le _ _).trans_eq (Finset.card_univ.trans card_byte)

/-- With x, the input x + dx is in the same bucket. -/
theorem bucketSize_mod_two (t : Table) {dx : Byte} (hdx : dx ≠ 0) (dy : Byte) : bucketSize t dx dy % 2 = 0 := by
  refine even_card_filter_of_xor hdx fun x hx => ?_
  rwa [xor_xor_self, BitVec.xor_comm]

theorem metricDu_mod_two (t : Table) : metricDu t % 2 = 0 := by
  obtain ⟨dx, dy, hdx, h⟩ := exists_bucketSize_eq_metricDu t
  rw [← h, bucketSize_mod_two t hdx]

theorem metricDu_le (t : Table) : metricDu t ≤ 256 := by
  obtain ⟨dx, dy, -, h⟩ := exists_bucketSize_eq_metricDu t
  rw [← h]
  exact bucketSize_le t dx dy

/-- The bucket of the input 0 is not empty. -/
theorem metricDu_pos (t : Table) : 0 < metricDu t := by
  have hmem : (0 : Byte) ∈ Finset.univ.filter fun x : Byte =>
      Indexed.at t x ^^^ Indexed.at t (x ^^^ 1) = Indexed.at t 0 ^^^ Indexed.at t (0 ^^^ 1) := by simp
  exact (Finset.card_pos.mpr ⟨0, hmem⟩).trans_le (bucketSize_le_metricDu t (dx := 1) _ (by decide))

/-! ### LB (44_metrics.md R113) -/

/-- A correlation sum is a sum of 256 signs. -/
theorem correlationSum_eq_sum_sign (t : Table) (a u : Byte) :
    correlationSum t a u = ∑ x, sign (parity (a &&& x) ^^ parity (u &&& Indexed.at t x)) := by
  simp only [correlationSum, sign_xor, sign_parity_eq_pow, pow_add]

theorem correlation_eq_correlationSum (t : Table) (a u : Byte) : correlation t a u = correlationSum t a u := by
  rw [correlation, sum_map_allBytes, correlationSum_eq_sum_sign]

theorem natAbs_correlationSum_mod_two (t : Table) (a u : Byte) : (correlationSum t a u).natAbs % 2 = 0 := by
  have h := sum_sign_emod_two fun x => parity (a &&& x) ^^ parity (u &&& Indexed.at t x)
  rw [← correlationSum_eq_sum_sign] at h
  omega

theorem natAbs_correlationSum_le (t : Table) (a u : Byte) : (correlationSum t a u).natAbs ≤ 256 := by
  rw [correlationSum_eq_sum_sign]
  exact natAbs_sum_sign_le fun x => parity (a &&& x) ^^ parity (u &&& Indexed.at t x)

/-- Twice LB is the greatest absolute correlation sum of nonzero masks: the greatest is even. -/
theorem isGreatest_two_mul_metricLb (t : Table) :
    IsGreatest {n | ∃ a, a ≠ 0 ∧ n ∈ (fun u => (correlationSum t a u).natAbs) '' {u | u ≠ 0}} (2 * metricLb t) := by
  have h : IsGreatest {n | ∃ a, a ≠ 0 ∧ n ∈ (fun u => (correlationSum t a u).natAbs) '' {u | u ≠ 0}}
      (maxOf (nonzeroBytes.map fun a => maxOf (nonzeroBytes.map fun u => (correlation t a u).natAbs))) := by
    refine isGreatest_maxOf_of_isGreatest fun a => ?_
    simp only [correlation_eq_correlationSum]
    exact isGreatest_maxOf_nonzeroBytes fun u => (correlationSum t a u).natAbs
  obtain ⟨a, -, u, -, hau⟩ := h.1
  have heven := natAbs_correlationSum_mod_two t a u
  simp only at hau
  rwa [metricLb, Nat.mul_div_cancel' (Nat.dvd_of_mod_eq_zero (hau ▸ heven))]

theorem natAbs_correlationSum_le_two_mul_metricLb (t : Table) {a u : Byte} (ha : a ≠ 0) (hu : u ≠ 0) :
    (correlationSum t a u).natAbs ≤ 2 * metricLb t :=
  (isGreatest_two_mul_metricLb t).2 ⟨a, ha, u, hu, rfl⟩

theorem exists_natAbs_correlationSum_eq (t : Table) :
    ∃ a u : Byte, a ≠ 0 ∧ u ≠ 0 ∧ (correlationSum t a u).natAbs = 2 * metricLb t := by
  obtain ⟨a, ha, u, hu, h⟩ := (isGreatest_two_mul_metricLb t).1
  exact ⟨a, u, ha, hu, h⟩

theorem metricLb_le (t : Table) : metricLb t ≤ 128 := by
  obtain ⟨a, u, -, -, h⟩ := exists_natAbs_correlationSum_eq t
  have hle := natAbs_correlationSum_le t a u
  omega

/-! ### DEG (44_metrics.md R115) -/

/-- A truth value as an element of GF(2). -/
def toGF2 (b : Bool) : ZMod 2 := if b then 1 else 0

/-- The kernel of the Möbius transform: 1 where the input's bit is a bit of the monomial. -/
def mobiusKernel (a b : Bool) : ZMod 2 := if b && !a then 0 else 1

theorem toGF2_mobiusStage (i : Nat) (g : Indexed Bool) :
    (fun m => toGF2 (Indexed.at (mobiusStage i g) m)) = stage mobiusKernel i fun m => toGF2 (Indexed.at g m) := by
  have hadd (p q : Bool) : toGF2 (p ^^ q) = toGF2 q + toGF2 p := by
    cases p <;> cases q <;> rfl
  funext m
  rw [at_mobiusStage, stage]
  cases hm : m.getLsbD i
  · simp [withBit, hm, mobiusKernel]
  · simp [withBit, hm, mobiusKernel, hadd]

/-- The eight stages of the Möbius transform. -/
theorem toGF2_anf (t : Table) (k : Nat) : (fun m => toGF2 (Indexed.at (anf t k) m)) =
    stages mobiusKernel 8 fun x => toGF2 ((Indexed.at t x).getLsbD k) := by
  have hfold (n : Nat) (g : Indexed Bool) :
      (fun m => toGF2 (Indexed.at ((List.range n).foldl (fun g i => mobiusStage i g) g) m)) =
        stages mobiusKernel n fun m => toGF2 (Indexed.at g m) := by
    induction n with
    | zero => rfl
    | succ n ih =>
      rw [List.range_succ, List.foldl_append, List.foldl_cons, List.foldl_nil, toGF2_mobiusStage, ih, stages]
  have hrange : bitPositions = List.range 8 := rfl
  rw [anf, hrange, hfold]
  simp only [at_tabulate]

/-- The product of the eight kernels: 1 where every bit of the input is a bit of the monomial. -/
theorem prod_mobiusKernel (m x : Byte) :
    ∏ i ∈ Finset.range 8, mobiusKernel (m.getLsbD i) (x.getLsbD i) = if x &&& m = x then 1 else 0 := by
  have hkernel (a b : Bool) : mobiusKernel a b = if (b && a) = b then 1 else 0 := by
    cases a <;> cases b <;> rfl
  have hsub : (∀ i ∈ Finset.range 8, (x.getLsbD i && m.getLsbD i) = x.getLsbD i) ↔ x &&& m = x := by
    simp only [← BitVec.getLsbD_and]
    exact ⟨fun h => BitVec.eq_of_getLsbD_eq fun i hi => h i (Finset.mem_range.mpr hi), fun h _ _ => by rw [h]⟩
  simp only [hkernel, Finset.prod_ite_zero, Finset.prod_const_one, hsub]

/-- The transform leaves the coefficients of the algebraic normal form. -/
theorem at_anf_iff (t : Table) (k : Nat) (m : Byte) : Indexed.at (anf t k) m = true ↔ HasMonomial t k m := by
  have hone (b : Bool) : b = true ↔ toGF2 b = 1 := by
    cases b <;> decide
  have hmul (p : Prop) [Decidable p] (b : Bool) :
      (if p then (1 : ZMod 2) else 0) * toGF2 b = if p ∧ b = true then 1 else 0 := by
    by_cases hp : p <;> cases b <;> simp [hp, toGF2]
  rw [hone, congrFun (toGF2_anf t k) m, stages_eight, HasMonomial, ← Nat.odd_iff, ← ZMod.natCast_eq_one_iff_odd]
  simp only [prod_mobiusKernel, hmul, Finset.sum_boole]

/-- The monomials that occur in output bit k, by their weights. -/
def monomialWeights (t : Table) (k : Nat) : List Nat := (allBytes.filter fun m => Indexed.at (anf t k) m).map popcount

theorem metricDeg_eq_maxOf (t : Table) :
    metricDeg t = maxOf ((List.range 8).map fun k => maxOf (monomialWeights t k)) := rfl

theorem mem_monomialWeights (t : Table) (k n : Nat) :
    n ∈ monomialWeights t k ↔ ∃ m, HasMonomial t k m ∧ bitWeight m = n := by
  simp [monomialWeights, mem_allBytes, at_anf_iff, popcount_eq_bitWeight]

theorem le_maxOf {l : List Nat} {n : Nat} (h : n ∈ l) : n ≤ maxOf l :=
  (isGreatest_maxOf (List.ne_nil_of_mem h)).2 h

theorem maxOf_eq_zero_or_mem (l : List Nat) : maxOf l = 0 ∨ maxOf l ∈ l := by
  by_cases hl : l = []
  · exact .inl (hl ▸ rfl)
  · exact .inr (isGreatest_maxOf hl).1

/-- DEG bounds the weights of the monomials that occur. -/
theorem bitWeight_le_metricDeg (t : Table) {k : Nat} {m : Byte} (hk : k < 8) (h : HasMonomial t k m) :
    bitWeight m ≤ metricDeg t := by
  rw [metricDeg_eq_maxOf]
  calc bitWeight m ≤ maxOf (monomialWeights t k) := le_maxOf ((mem_monomialWeights t k _).mpr ⟨m, h, rfl⟩)
    _ ≤ _ := le_maxOf (List.mem_map.mpr ⟨k, List.mem_range.mpr hk, rfl⟩)

/-- DEG is 0 or the weight of a monomial that occurs. -/
theorem metricDeg_eq_zero_or_exists (t : Table) : metricDeg t = 0 ∨
    ∃ (k : Nat) (m : Byte), k < 8 ∧ HasMonomial t k m ∧ bitWeight m = metricDeg t := by
  rw [metricDeg_eq_maxOf]
  obtain h0 | hmem := maxOf_eq_zero_or_mem ((List.range 8).map fun k => maxOf (monomialWeights t k))
  · exact .inl h0
  · obtain ⟨k, hk, hmax⟩ := List.mem_map.mp hmem
    rw [← hmax]
    refine (maxOf_eq_zero_or_mem _).imp_right fun hw => ?_
    obtain ⟨m, hm, hweight⟩ := (mem_monomialWeights t k _).mp hw
    exact ⟨k, m, List.mem_range.mp hk, hm, hweight⟩

theorem metricDeg_le (t : Table) : metricDeg t ≤ 8 := by
  obtain h | ⟨k, m, -, -, h⟩ := metricDeg_eq_zero_or_exists t
  · rw [h]
    exact Nat.zero_le 8
  · rw [← h]
    exact bitWeight_le m

/-! ### The ranges (44_metrics.md R120) -/

theorem metricBij_eq_card (t : Table) : metricBij t = (Finset.univ.image (Indexed.at t)).card :=
  distinctOutputs_eq_card_image t

theorem metricBij_pos (t : Table) : 0 < metricBij t := by
  rw [metricBij_eq_card]
  exact Finset.card_pos.mpr (Finset.univ_nonempty.image _)

theorem metricBij_le (t : Table) : metricBij t ≤ 256 := by
  rw [metricBij_eq_card]
  exact (Finset.card_le_univ _).trans_eq card_byte

theorem metricFp_eq_card (t : Table) : metricFp t = (Finset.univ.filter fun x => Indexed.at t x = x).card :=
  fixedPoints_eq_card t

theorem metricFp_le (t : Table) : metricFp t ≤ 256 := by
  rw [metricFp_eq_card]
  exact (Finset.card_filter_le _ _).trans_eq (Finset.card_univ.trans card_byte)

theorem maxWalsh_le (t : Table) (u : Byte) : maxWalsh t u ≤ 256 := by
  obtain ⟨a, ha⟩ := (isGreatest_maxWalsh t u).1
  rw [← ha]
  simp only [at_walshHadamard_signTable]
  exact natAbs_sum_sign_le fun x => parity (Indexed.at t x &&& u) ^^ parity (a &&& x)

theorem metricNl_le (t : Table) : metricNl t ≤ 128 := by
  rw [metricNl_eq_sub_maxOf]
  omega

theorem metricNl_nonneg (t : Table) : 0 ≤ metricNl t := by
  have hmax : maxOf (nonzeroBytes.map fun u => maxWalsh t u / 2) ≤ 128 := by
    refine maxOf_le fun n hn => ?_
    obtain ⟨u, -, rfl⟩ := List.mem_map.mp hn
    have hle := maxWalsh_le t u
    omega
  rw [metricNl_eq_sub_maxOf]
  omega

/-- A natural that fits the width is not changed by the narrowing. -/
theorem toNat_ofNat_of_lt {w n : Nat} (h : n < 2 ^ w) : (BitVec.ofNat w n).toNat = n := by
  rw [BitVec.toNat_ofNat, Nat.mod_eq_of_lt h]

/-- So is NL, a nonnegative integer. -/
theorem toNat_ofInt_metricNl (t : Table) : ((BitVec.ofInt 8 (metricNl t)).toNat : Int) = metricNl t := by
  have h0 := metricNl_nonneg t
  have h128 := metricNl_le t
  rw [BitVec.toNat_ofInt]
  omega

/-- Settles O31: each metric's range is below the power of two of its register's width. -/
theorem metricRangesFitTheirRegisters : Obligations.MetricRangesFitTheirRegisters := by
  unfold Obligations.MetricRangesFitTheirRegisters
  intro t
  have hdu : 2 ≤ metricDu t := by
    have hpos := metricDu_pos t
    have heven := metricDu_mod_two t
    omega
  exact ⟨⟨metricBij_pos t, metricBij_le t⟩, ⟨metricNl_nonneg t, metricNl_le t⟩, metricSac_le t,
    ⟨hdu, metricDu_le t, metricDu_mod_two t⟩, metricLb_le t, metricDeg_le t, metricFp_le t,
    toNat_ofNat_of_lt ((metricBij_le t).trans_lt (by decide)), toNat_ofInt_metricNl t,
    toNat_ofNat_of_lt ((metricSac_le t).trans_lt (by decide)), toNat_ofNat_of_lt ((metricDu_le t).trans_lt (by decide)),
    toNat_ofNat_of_lt ((metricLb_le t).trans_lt (by decide)), toNat_ofNat_of_lt ((metricDeg_le t).trans_lt (by decide)),
    toNat_ofNat_of_lt ((metricFp_le t).trans_lt (by decide))⟩

/-! ### Constant tables and the identity (44_metrics.md, the corner cases of sections 2 to 8) -/

/-- An output bit that does not depend on input bit i has no monomial with bit i. -/
theorem not_hasMonomial_of_xor {t : Table} {k i : Nat} {m : Byte} (hi : i < 8) (hm : m.getLsbD i = true)
    (h : ∀ x, (Indexed.at t (x ^^^ (1#8 <<< i))).getLsbD k = (Indexed.at t x).getLsbD k) : ¬ HasMonomial t k m := by
  have hbit : (1#8 <<< i) ≠ 0 := by
    intro h0
    have hb := congrArg (fun v => v.getLsbD i) h0
    simp [getLsbD_bit hi] at hb
  have heven := even_card_filter_of_xor hbit (p := fun x => x &&& m = x ∧ (Indexed.at t x).getLsbD k = true) ?_
  · rw [HasMonomial, heven]
    decide
  · rintro x ⟨hx, hk⟩
    refine ⟨BitVec.eq_of_getLsbD_eq fun j _ => ?_, (h x).trans hk⟩
    have hxj := congrArg (fun v => v.getLsbD j) hx
    simp only [BitVec.getLsbD_and, BitVec.getLsbD_xor, getLsbD_bit hi] at hxj ⊢
    by_cases hj : j = i
    · simp [hj, hm]
    · simpa [hj] using hxj

/-- A coefficient of 256 or -256 makes NL 0. -/
theorem metricNl_eq_zero {t : Table} {u a : Byte} (hu : u ≠ 0)
    (h : (Indexed.at (walshHadamard (signTable t u)) a).natAbs = 256) : metricNl t = 0 := by
  have hle := (butterflyComputesTheWalshSums.2.2 t).1 u a hu
  have h0 := metricNl_nonneg t
  rw [h] at hle
  omega

/-- A full bucket makes DU 256. -/
theorem metricDu_eq_256 {t : Table} {dx dy : Byte} (hdx : dx ≠ 0)
    (h : ∀ x, Indexed.at t x ^^^ Indexed.at t (x ^^^ dx) = dy) : metricDu t = 256 := by
  refine le_antisymm (metricDu_le t) ?_
  calc 256 = bucketSize t dx dy := by
        rw [bucketSize, Finset.filter_true_of_mem fun x _ => h x, Finset.card_univ, card_byte]
    _ ≤ metricDu t := bucketSize_le_metricDu t dy hdx

section Constant
variable {t : Table} {c : Byte} (ht : ∀ x, Indexed.at t x = c)
include ht

theorem metricBij_of_const : metricBij t = 1 := by
  rw [metricBij_eq_card, funext ht, Finset.image_const Finset.univ_nonempty, Finset.card_singleton]

theorem metricNl_of_const : metricNl t = 0 := by
  refine metricNl_eq_zero (u := 1) (a := 0) (by decide) ?_
  rw [at_walshHadamard_signTable]
  have hzero (x : Byte) : (0 : Byte) &&& x = 0 := BitVec.zero_and
  simp only [ht, hzero, Finset.sum_const, Finset.card_univ, card_byte]
  cases parity (c &&& 1) <;> rfl

theorem metricSac_of_const : metricSac t = 0 := by
  have hzero : bitWeight 0#8 = 0 := by decide
  rw [metricSac_eq_sum]
  simp only [ht, BitVec.xor_self]
  simp [hzero]

theorem metricLb_of_const : metricLb t = 0 := by
  obtain ⟨a, u, ha, -, h⟩ := exists_natAbs_correlationSum_eq t
  have hsum : correlationSum t a u = 0 := by
    rw [correlationSum_eq_sum_sign]
    simp only [ht, sign_xor]
    rw [← Finset.sum_mul, sum_sign_parity_and_eq_zero ha, zero_mul]
  rw [hsum] at h
  simpa using h.symm

theorem metricDeg_of_const : metricDeg t = 0 := by
  obtain h | ⟨k, m, -, hm, h⟩ := metricDeg_eq_zero_or_exists t
  · exact h
  · rw [← h, bitWeight, Finset.card_eq_zero, Finset.filter_eq_empty_iff]
    intro i hi hbit
    exact not_hasMonomial_of_xor (Finset.mem_range.mp hi) hbit (fun x => by rw [ht, ht]) hm

theorem metricFp_of_const : metricFp t = 1 := by
  rw [metricFp_eq_card]
  simp only [ht, Finset.filter_eq, Finset.mem_univ, if_true, Finset.card_singleton]

end Constant

section Identity
variable {t : Table} (ht : ∀ x, Indexed.at t x = x)
include ht

theorem metricBij_of_id : metricBij t = 256 := by
  rw [metricBij_eq_card, (funext ht : Indexed.at t = id), Finset.image_id, Finset.card_univ, card_byte]

theorem metricNl_of_id : metricNl t = 0 := by
  refine metricNl_eq_zero (u := 1) (a := 1) (by decide) ?_
  rw [at_walshHadamard_signTable]
  simp only [ht, BitVec.and_comm _ (1 : Byte), Bool.xor_self, Finset.sum_const, Finset.card_univ, card_byte]
  rfl

theorem metricSac_of_id : metricSac t = 2048 := by
  have hbit : ∀ i ∈ Finset.range 8, bitWeight (1#8 <<< i) = 1 := by decide
  rw [metricSac_eq_sum]
  simp only [ht, ← BitVec.xor_assoc, BitVec.xor_self, BitVec.zero_xor, Finset.sum_congr rfl hbit, Finset.sum_const,
    Finset.card_univ, card_byte, Finset.card_range]
  rfl

theorem metricLb_of_id : metricLb t = 128 := by
  have hsum : correlationSum t 1 1 = 256 := by
    rw [correlationSum_eq_sum_sign]
    simp only [ht, Bool.xor_self, Finset.sum_const, Finset.card_univ, card_byte]
    rfl
  have hge := natAbs_correlationSum_le_two_mul_metricLb t (a := 1) (u := 1) (by decide) (by decide)
  have hle := metricLb_le t
  rw [hsum] at hge
  omega

/-- Output bit k depends on input bit k alone. -/
theorem metricDeg_of_id : metricDeg t = 1 := by
  refine le_antisymm ?_ ?_
  · obtain h | ⟨k, m, -, hm, h⟩ := metricDeg_eq_zero_or_exists t
    · omega
    · rw [← h, bitWeight]
      refine Finset.card_le_one_iff_subset_singleton.mpr ⟨k, fun i hi => ?_⟩
      obtain ⟨hi, hbit⟩ := Finset.mem_filter.mp hi
      rw [Finset.mem_singleton]
      by_contra hik
      refine not_hasMonomial_of_xor (Finset.mem_range.mp hi) hbit (fun x => ?_) hm
      rw [ht, ht, BitVec.getLsbD_xor, getLsbD_bit (Finset.mem_range.mp hi), decide_eq_false (Ne.symm hik),
        Bool.xor_false]
  · have hmono : HasMonomial t 0 1 := by
      simp only [HasMonomial, ht]
      decide +kernel
    exact (by decide : 1 ≤ bitWeight 1).trans (bitWeight_le_metricDeg t (by decide) hmono)

theorem metricFp_of_id : metricFp t = 256 := by
  rw [metricFp_eq_card, Finset.filter_true_of_mem fun x _ => ht x, Finset.card_univ, card_byte]

end Identity

/-- Settles O33: each metric by its formula; a constant table depends on no input bit, and each output bit of the identity
on one. -/
theorem metricsFollowTheirFormulas : Obligations.MetricsFollowTheirFormulas := by
  unfold Obligations.MetricsFollowTheirFormulas
  refine ⟨metricSac_eq_sum, fun t => ⟨fun dx dy => bucketSize_le_metricDu t dy, exists_bucketSize_eq_metricDu t⟩,
    fun t => ⟨fun a u => natAbs_correlationSum_le_two_mul_metricLb t, exists_natAbs_correlationSum_eq t⟩,
    fun t k m _ => at_anf_iff t k m,
    fun t => ⟨fun k m => bitWeight_le_metricDeg t, metricDeg_eq_zero_or_exists t⟩, fun t c ht => ?_, fun t ht => ?_⟩
  · have hdu : metricDu t = 256 := metricDu_eq_256 (dx := 1) (by decide) fun x => by rw [ht, ht, BitVec.xor_self]
    exact ⟨metricBij_of_const ht, metricNl_of_const ht, metricSac_of_const ht, hdu, metricLb_of_const ht,
      metricDeg_of_const ht, metricFp_of_const ht⟩
  · have hdu : metricDu t = 256 := metricDu_eq_256 (dx := 1) (dy := 1) (by decide) fun x => by
      rw [ht, ht, ← BitVec.xor_assoc, BitVec.xor_self, BitVec.zero_xor]
    exact ⟨metricBij_of_id ht, metricNl_of_id ht, metricSac_of_id ht, hdu, metricLb_of_id ht, metricDeg_of_id ht,
      metricFp_of_id ht⟩

/-! ### The metric commands (44_metrics.md R106 to R119) -/

/-- Settles O30: a metric command checks no operand; its body writes its register and RES0, MALL's the seven registers. -/
theorem metricCommandsReport : Obligations.MetricCommandsReport := by
  unfold Obligations.MetricCommandsReport
  intro s
  have hexec {i : Instr} (hi : form i = .n) := exec_of_no_check (.inl hi) s
  cases s
  refine ⟨hexec rfl, hexec rfl, hexec rfl, hexec rfl, hexec rfl, hexec rfl, hexec rfl, decode_encode .mbij,
    decode_encode .mnl, decode_encode .msac, decode_encode .mdu, decode_encode .mlb, decode_encode .mdeg,
    decode_encode .mfp, decode_encode .mall, hexec rfl⟩

end Sys2Proof.Machine

end

section
/-! PROOFS. Whole-machine invariants (10_state.md; 60_exceptions.md): HALT, and the flags, the table and the metrics. -/

namespace Sys2Proof.Machine

/-! ### What a command's body does to HALT and ERR (60_exceptions.md R137, R142) -/

/-- GINV writes RES0, and may report NOINV (41_field.md R86). -/
theorem bodyOf_ginv_cases (s : State) :
    ∃ v, bodyOf .ginv s = writeRes0 v s ∨ bodyOf .ginv s = setErr .noinv (writeRes0 v s) := by
  rw [bodyOf]
  split
  · exact ⟨_, .inl rfl⟩
  · exact ⟨_, .inr rfl⟩

/-- SSEARCH installs the table of the constant it finds, or reports NOCONST (43_sbox.md R98). -/
theorem bodyOf_ssearch_cases (s : State) : (∃ c, bodyOf .ssearch s = writeRes0 c (installTable c s)) ∨
    bodyOf .ssearch s = setErr .noconst (scrambleTable s) := by
  rw [bodyOf]
  cases searchConst s.mlo s.seed with
  | some c => exact .inl ⟨c, rfl⟩
  | none => exact .inr rfl

/-- No body writes HALT: MIXCHK's results are equal. -/
@[simp] theorem bodyOf_halt (i : Instr) (s : State) : (bodyOf i s).halt = s.halt := by
  cases i with
  | ginv => obtain ⟨v, he | he⟩ := bodyOf_ginv_cases s <;> rw [he] <;> rfl
  | ssearch => obtain ⟨c, he⟩ | he := bodyOf_ssearch_cases s <;> rw [he] <;> rfl
  | mixchk => rw [bodyOf_mixchk]; rfl
  | _ => cases s; rfl

/-- A body leaves ERR, or reports NOCONST or NOINV. -/
theorem bodyOf_err_cases (i : Instr) (s : State) :
    (bodyOf i s).err = s.err ∨ (bodyOf i s).err = errCode .noconst ∨ (bodyOf i s).err = errCode .noinv := by
  cases i with
  | ginv =>
    obtain ⟨v, he | he⟩ := bodyOf_ginv_cases s <;> rw [he]
    · exact .inl rfl
    · exact .inr (.inr rfl)
  | ssearch =>
    obtain ⟨c, he⟩ | he := bodyOf_ssearch_cases s <;> rw [he]
    · exact .inl rfl
    · exact .inr (.inl rfl)
  | mixchk => rw [bodyOf_mixchk]; exact .inl rfl
  | _ => cases s; exact .inl rfl

/-- The engine's turn with a command pending: the end of a completion after an error report or the body. -/
theorem engineTurn_of_busy {s t : State} (hb : s.busy = true) (h : engineTurn s = .next t) :
    (∃ c ∈ [ErrCode.illegal, .operand], t = finish (setErr c s)) ∨ ∃ i, t = finish (bodyOf i s) := by
  obtain ⟨hidle, -⟩ | ⟨-, rfl⟩ | ⟨i, -, -, hexec⟩ := engineTurn_cases h
  · cases hb.symm.trans hidle
  · exact .inl ⟨.illegal, by decide, rfl⟩
  · obtain he | he := exec_eq_finish i s <;> cases he.symm.trans hexec
    · exact .inr ⟨i, rfl⟩
    · exact .inl ⟨.operand, by decide, rfl⟩

/-- The engine's turn never writes HALT. -/
theorem engineTurn_halt {s t : State} (h : engineTurn s = .next t) : t.halt = s.halt := by
  cases hb : s.busy
  · cases (engineTurn_of_idle hb).symm.trans h
    rfl
  · obtain ⟨c, -, rfl⟩ | ⟨i, rfl⟩ := engineTurn_of_busy hb h
    · rfl
    · rw [finish_halt, bodyOf_halt]

/-- The engine's turn leaves ERR, or reports one of the codes 1 to 4: never DIVERGE. -/
theorem engineTurn_err {s t : State} (h : engineTurn s = .next t) :
    t.err = s.err ∨ t.err ∈ ([1, 2, 3, 4] : List (BitVec 4)) := by
  cases hb : s.busy
  · cases (engineTurn_of_idle hb).symm.trans h
    exact .inl rfl
  · obtain ⟨c, hc, rfl⟩ | ⟨i, rfl⟩ := engineTurn_of_busy hb h
    · right
      rw [finish_err, setErr_err]
      fin_cases hc <;> decide
    · rw [finish_err]
      obtain he | he | he := bodyOf_err_cases i s <;> rw [he]
      · exact .inl rfl
      · exact .inr (by decide)
      · exact .inr (by decide)

/-! ### HALT lasts until a reset (60_exceptions.md R142, R148) -/

/-- HALT = 1, and ERR holds this code. -/
structure HaltedAt (e : BitVec 4) (s : State) : Prop where
  halt : s.halt = true
  err : s.err = e

theorem HaltedAt.of_eq {e : BitVec 4} {s t : State} (h : HaltedAt e s) (hh : t.halt = s.halt) (he : t.err = s.err) :
    HaltedAt e t :=
  ⟨hh.trans h.halt, he.trans h.err⟩

/-- The host's side is neither. -/
theorem HaltedAt.hostSide {e : BitVec 4} {s : State} (h : HaltedAt e s) (hs : List HostStmt) (rec : BusRecord) :
    HaltedAt e (setHost hs (record rec s)) := h.of_eq rfl rfl

/-- The store of a host's word writes neither. -/
theorem HaltedAt.storeReg {e : BitVec 4} {s : State} (h : HaltedAt e s) (r : Reg) (w : Word) :
    HaltedAt e (storeReg r w s) := by
  cases r <;> exact h.of_eq rfl rfl

/-- The acknowledge leaves ERR while HALT = 1. -/
theorem HaltedAt.ctrlWrite {e : BitVec 4} {s : State} {w : Word} (h : HaltedAt e s) (hw : w.getLsbD 0 = false) :
    HaltedAt e (Machine.ctrlWrite w s) := by
  obtain ⟨hsrst, -⟩ | ⟨-, -, he⟩ | ⟨-, -, he⟩ := ctrlWrite_cases w s
  · cases hw.symm.trans hsrst
  · rw [he]
    have hack : (acknowledge (setIe (w.getLsbD 2) s)).err = s.err := if_pos h.halt
    exact h.of_eq rfl hack
  · rw [he]; exact h.of_eq rfl rfl

/-- A host's write that is no soft reset keeps a halted state. -/
theorem HaltedAt.writeReg {e : BitVec 4} {r : Reg} {s : State} {w : Word} (h : HaltedAt e s)
    (hw : writeAccess r = .ctrl → w.getLsbD 0 = false) : HaltedAt e (Machine.writeReg r w s) := by
  obtain he | ⟨hr, he⟩ | he | ⟨-, he⟩ | ⟨-, -, he⟩ | ⟨-, -, he⟩ | ⟨-, -, he⟩ := writeReg_cases r w s <;> rw [he]
  · exact h
  · exact h.ctrlWrite (hw hr)
  · rwa [cmdWrite_of_halt w h.halt]
  · exact h.of_eq rfl rfl
  · exact h.of_eq rfl rfl
  · exact h.storeReg r w
  · exact h.storeReg r w

/-- The host's turn, when it is no reset event, keeps a halted state. -/
theorem HaltedAt.hostTurn {e : BitVec 4} {s t : State} (h : HaltedAt e s) (hno : ¬ ResetEvent .host s)
    (ht : Machine.hostTurn s = .next t) : HaltedAt e t := by
  obtain rfl | ⟨_, rfl⟩ | ⟨_, _, rfl⟩ | ⟨_, _, -, rfl⟩ | ⟨off, n, w, rest, hh, hs, rfl⟩ := hostTurn_cases ht
  · exact h
  · exact h.of_eq rfl rfl
  · exact h.of_eq rfl rfl
  · exact h.of_eq rfl rfl
  · have hw : writeAccess (regAt off) = .ctrl → w.getLsbD 0 = false := fun hr =>
      Bool.eq_false_iff.mpr fun hw => hno (resetEvent_of_srst hh hs hr hw)
    exact (h.writeReg hw).hostSide _ _

/-- A turn that is no reset event keeps HALT = 1, and ERR where no command is pending. -/
theorem takeTurn_of_halt {u : Turn} {s t : State} (hh : s.halt = true) (hno : ¬ ResetEvent u s)
    (ht : takeTurn u s = .next t) : t.halt = true ∧ (s.busy = false → t.err = s.err) := by
  cases u with
  | engine =>
    refine ⟨(engineTurn_halt ht).trans hh, fun hb => ?_⟩
    cases (engineTurn_of_idle hb).symm.trans ht
    rfl
  | host =>
    obtain ⟨hhalt, herr⟩ := HaltedAt.hostTurn ⟨hh, rfl⟩ hno ht
    exact ⟨hhalt, fun _ => herr⟩
  | rst => exact absurd (.inl rfl) hno

/-- A reset event clears HALT, LOCK, BUSY and ERR. -/
theorem takeTurn_resetEvent_flags {u : Turn} {s t : State} (hr : ResetEvent u s) (ht : takeTurn u s = .next t) :
    t.halt = false ∧ t.lock = false ∧ t.busy = false ∧ t.err = 0 := by
  obtain rfl | ⟨rest, rec, rfl⟩ := takeTurn_resetEvent hr ht
  · exact ⟨rfl, rfl, rfl, rfl⟩
  · exact ⟨rfl, rfl, rfl, rfl⟩

/-- Settles O43: a turn is a reset event or keeps a halted state; consistent flags with HALT = 1 have no command pending. -/
theorem haltLastsUntilReset : Obligations.HaltLastsUntilReset := by
  unfold Obligations.HaltLastsUntilReset
  refine fun s hh => ⟨fun w => ?_, fun w hw => ?_, fun s' hst => ?_⟩
  · rw [memWrite_cmd, cmdWrite_of_halt w hh]
  · rw [memWrite_ctrl]
    exact (HaltedAt.ctrlWrite ⟨hh, rfl⟩ hw).err
  · obtain ⟨us, hstep⟩ := step_eq_takeTurn s
    rw [hstep] at hst
    refine ⟨fun hno => ?_, fun hr => takeTurn_resetEvent_flags (s := setTurns us s) hr hst⟩
    obtain ⟨hhalt, herr⟩ := takeTurn_of_halt (s := setTurns us s) hh hno hst
    refine ⟨hhalt, fun ⟨_, hbusyhalt, _⟩ => herr ?_⟩
    exact Bool.eq_false_iff.mpr fun hb => absurd (hbusyhalt hb) (by rw [hh]; decide)

/-! ### What every step keeps

A step is the engine's completion, a reset, or a host's write; beside these it writes the schedule and the host's side
alone. So a predicate of the state is kept by every step when it is kept by those operations. -/

/-- The operations keep P. -/
structure Kept (P : State → Prop) : Prop where
  modelSide : ∀ (s : State) (draws : Nat) (turns : List Turn) (host : List HostStmt) (trace : List BusRecord), P s →
    P { s with draws := draws, turns := turns, host := host, trace := trace }
  sticky : ∀ (s : State) (ie busyerr cfgerr : Bool), P s → P { s with ie := ie, busyerr := busyerr, cfgerr := cfgerr }
  acknowledge : ∀ s, P s → P (acknowledge s)
  accept : ∀ w s, s.halt = false → s.busy = false → P s → P (accept w s)
  storeReg : ∀ r w s, s.busy = false → (writeAccess r = .rwb ∨ s.lock = false) → P s → P (storeReg r w s)
  resetBlock : ∀ s, P (resetBlock s)
  completion : ∀ s t, s.busy = true → engineTurn s = .next t → P s → P t

section
variable {P : State → Prop} (hP : Kept P) {s t : State} (hs : P s)
include hP hs

theorem Kept.ctrlWrite (w : Word) : P (ctrlWrite w s) := by
  have hie : P (setIe (w.getLsbD 2) s) := hP.sticky s _ _ _ hs
  obtain ⟨-, he⟩ | ⟨-, -, he⟩ | ⟨-, -, he⟩ := ctrlWrite_cases w s <;> rw [he]
  · exact hP.resetBlock s
  · exact hP.acknowledge _ hie
  · exact hie

theorem Kept.cmdWrite (w : Word) : P (cmdWrite w s) := by
  obtain ⟨-, he⟩ | ⟨-, -, he⟩ | ⟨hh, hb, he⟩ := cmdWrite_cases w s <;> rw [he]
  · exact hs
  · exact hP.sticky s _ _ _ hs
  · exact hP.accept w s hh hb hs

theorem Kept.writeReg (r : Reg) (w : Word) : P (writeReg r w s) := by
  obtain he | ⟨-, he⟩ | he | ⟨-, he⟩ | ⟨-, -, he⟩ | ⟨hb, hr, he⟩ | ⟨hb, hl, he⟩ := writeReg_cases r w s <;> rw [he]
  · exact hs
  · exact hP.ctrlWrite hs w
  · exact hP.cmdWrite hs w
  · exact hP.sticky s _ _ _ hs
  · exact hP.sticky s _ _ _ hs
  · exact hP.storeReg r w s hb (.inl hr) hs
  · exact hP.storeReg r w s hb (.inr hl) hs

theorem Kept.hostSide (host : List HostStmt) (rec : BusRecord) : P (setHost host (record rec s)) :=
  hP.modelSide s _ _ _ _ hs

theorem Kept.hostTurn (ht : hostTurn s = .next t) : P t := by
  obtain rfl | ⟨_, rfl⟩ | ⟨_, _, rfl⟩ | ⟨_, _, -, rfl⟩ | ⟨off, n, w, rest, -, -, rfl⟩ := hostTurn_cases ht
  · exact hs
  · exact hP.modelSide s _ _ _ _ hs
  · exact hP.modelSide s _ _ _ _ hs
  · exact hP.modelSide s _ _ _ _ hs
  · exact hP.hostSide (hP.writeReg hs (regAt off) w) _ _

theorem Kept.engineTurn (ht : engineTurn s = .next t) : P t := by
  cases hb : s.busy
  · cases (engineTurn_of_idle hb).symm.trans ht
    exact hs
  · exact hP.completion s t hb ht hs

/-- A predicate that the operations keep is kept by every step. -/
theorem Kept.step (hst : step s = .next t) : P t := by
  obtain ⟨us, ht | ht | rfl⟩ := step_cases hst
  · exact hP.engineTurn (hP.modelSide s _ us _ _ hs) ht
  · exact hP.hostTurn (hP.modelSide s _ us _ _ hs) ht
  · exact hP.resetBlock _

end

/-! ### The machine never halts (60_exceptions.md section 1) -/

/-- HALT = 0, and ERR is not DIVERGE. -/
def Unhalted (s : State) : Prop := s.halt = false ∧ s.err ≠ 5

/-- A completion writes no HALT and never ERR = 5. -/
theorem unhalted_of_completion {s t : State} (ht : engineTurn s = .next t) (h : Unhalted s) : Unhalted t := by
  obtain ⟨hh, he⟩ := h
  have hcodes : ∀ e ∈ ([1, 2, 3, 4] : List (BitVec 4)), e ≠ 5 := by decide
  refine ⟨(engineTurn_halt ht).trans hh, ?_⟩
  obtain hsame | hcode := engineTurn_err ht
  · rwa [hsame]
  · exact hcodes _ hcode

theorem unhalted_of_err_zero {s : State} (hh : s.halt = false) (he : s.err = 0) : Unhalted s :=
  ⟨hh, by rw [he]; decide⟩

theorem kept_unhalted : Kept Unhalted where
  modelSide _ _ _ _ _ h := h
  sticky _ _ _ _ h := h
  acknowledge _ h := unhalted_of_err_zero h.1 (if_neg (Bool.eq_false_iff.mp h.1))
  accept _ _ hh _ _ := unhalted_of_err_zero hh rfl
  storeReg r _ _ _ _ h := by cases r <;> exact h
  resetBlock _ := unhalted_of_err_zero rfl rfl
  completion _ _ _ ht h := unhalted_of_completion ht h

/-- Settles O59: no completion halts, because MIXCHK's two results are equal, and no other operation does. -/
theorem machineNeverHalts : Obligations.MachineNeverHalts := by
  unfold Obligations.MachineNeverHalts
  exact fun s s' hh he hst => kept_unhalted.step ⟨hh, he⟩ hst

/-! ### The flags' relations (10_state.md R14, R19 to R22) -/

/-- The relations speak of BUSY, DONE, LOCK, HALT and ERR alone. -/
theorem flagsConsistent_of_eq {s t : State} (hb : t.busy = s.busy) (hd : t.done = s.done) (hl : t.lock = s.lock)
    (hh : t.halt = s.halt) (he : t.err = s.err) (h : s.FlagsConsistent) : t.FlagsConsistent := by
  simpa only [State.FlagsConsistent, hb, hd, hl, hh, he] using h

/-- With no command pending and HALT = 0, the relations ask for LOCK where DONE = 1, and for ERR below 5. -/
theorem flagsConsistent_of_idle {s : State} (hb : s.busy = false) (hh : s.halt = false)
    (hd : s.done = true → s.lock = true) (he : s.err.toNat < 5) : s.FlagsConsistent := by
  have h5 : s.err ≠ 5 := by
    intro h
    rw [h] at he
    exact absurd he (by decide)
  simp only [State.FlagsConsistent, hb, hh, h5, Bool.false_eq_true, false_implies, true_and, and_true]
  exact ⟨hd, he.le⟩

theorem flagsConsistent_completion {s t : State} (hb : s.busy = true) (ht : engineTurn s = .next t)
    (h : s.FlagsConsistent) : t.FlagsConsistent := by
  obtain ⟨-, hhalt, herr, hlock, -⟩ := h
  have hcodes : ∀ e ∈ ([1, 2, 3, 4] : List (BitVec 4)), e.toNat < 5 := by decide
  have hidle : t.busy = false := by
    obtain ⟨u, hu, hidle⟩ := exists_engineTurn s
    cases hu.symm.trans ht
    exact hidle
  obtain ⟨hl, -, -⟩ := FrozenAt.engineTurn ⟨hlock hb, rfl, rfl⟩ ht
  refine flagsConsistent_of_idle hidle ((engineTurn_halt ht).trans (hhalt hb)) (fun _ => hl) ?_
  obtain he | he := engineTurn_err ht
  · rw [he, herr hb]
    decide
  · exact hcodes _ he

/-- The acknowledge clears DONE, and ERR where HALT = 0. -/
theorem flagsConsistent_acknowledge {s : State} (h : s.FlagsConsistent) : (acknowledge s).FlagsConsistent := by
  obtain ⟨-, hhalt, herr, hlock, -, hhaltlock, hle, h5⟩ := h
  cases hh : s.halt
  · have hack : (acknowledge s).err = 0 := if_neg (Bool.eq_false_iff.mp hh)
    refine ⟨fun _ => rfl, fun _ => hh, fun _ => hack, hlock, nofun, hhaltlock, ?_, iff_of_false ?_ ?_⟩
    · rw [hack]; decide
    · rw [hack]; decide
    · exact Bool.eq_false_iff.mp hh
  · have hack : (acknowledge s).err = s.err := if_pos hh
    exact ⟨fun _ => rfl, hhalt, fun hb => hack.trans (herr hb), hlock, nofun, hhaltlock, hack ▸ hle, hack ▸ h5⟩

/-- An acceptance leaves a pending command with the flags of one. -/
theorem flagsConsistent_accept (w : Word) {s : State} (hh : s.halt = false) : (accept w s).FlagsConsistent :=
  ⟨fun _ => rfl, fun _ => hh, fun _ => rfl, fun _ => rfl, fun _ => rfl, fun _ => rfl, by rw [accept_err]; decide,
    iff_of_false (by rw [accept_err]; decide) (Bool.eq_false_iff.mp hh)⟩

theorem kept_flagsConsistent : Kept State.FlagsConsistent where
  modelSide _ _ _ _ _ h := h
  sticky _ _ _ _ h := h
  acknowledge _ h := flagsConsistent_acknowledge h
  accept w _ hh _ _ := flagsConsistent_accept w hh
  storeReg r _ _ _ _ h := by cases r <;> exact h
  resetBlock _ := flagsConsistent_of_idle rfl rfl nofun (by rw [resetBlock_err]; decide)
  completion _ _ hb ht h := flagsConsistent_completion hb ht h

/-! ### The table and SVALID (10_state.md R33) -/

/-- A body leaves the table, CONST and SVALID, or installs a table that is the one of its constant, or clears SVALID. -/
theorem bodyOf_table_cases (i : Instr) (s : State) :
    ((bodyOf i s).t = s.t ∧ (bodyOf i s).sconst = s.sconst ∧ (bodyOf i s).svalid = s.svalid) ∨
      (bodyOf i s).t = build s.mlo s.seed (bodyOf i s).sconst ∨ (bodyOf i s).svalid = false := by
  cases i with
  | ginv => obtain ⟨v, he | he⟩ := bodyOf_ginv_cases s <;> rw [he] <;> exact .inl ⟨rfl, rfl, rfl⟩
  | sbuild => exact .inr (.inl rfl)
  | ssearch =>
    obtain ⟨c, he⟩ | he := bodyOf_ssearch_cases s <;> rw [he]
    · exact .inr (.inl rfl)
    · exact .inr (.inr rfl)
  | mixchk => rw [bodyOf_mixchk]; exact .inl ⟨rfl, rfl, rfl⟩
  | _ => cases s; exact .inl ⟨rfl, rfl, rfl⟩

/-- A body keeps SVALID's meaning while LOCK = 1. -/
theorem tableMatchesConst_bodyOf (i : Instr) {s : State} (hl : s.lock = true) (h : s.TableMatchesConst) :
    (bodyOf i s).TableMatchesConst := by
  intro hv
  obtain ⟨-, -, -, hmlo, hseed, -, hlock, -⟩ := bodyOf_frame i s
  rw [hlock, hmlo, hseed]
  obtain ⟨ht, hc, hvalid⟩ | ht | hinvalid := bodyOf_table_cases i s
  · rw [ht, hc]
    exact h (hvalid ▸ hv)
  · exact ⟨hl, ht⟩
  · cases hinvalid.symm.trans hv

theorem tableMatchesConst_completion {s t : State} (hb : s.busy = true) (ht : engineTurn s = .next t)
    (hf : s.FlagsConsistent) (h : s.TableMatchesConst) : t.TableMatchesConst := by
  obtain ⟨-, -, -, hlock, -⟩ := hf
  obtain ⟨c, -, rfl⟩ | ⟨i, rfl⟩ := engineTurn_of_busy hb ht
  · exact h
  · exact tableMatchesConst_bodyOf i (hlock hb) h

/-- A host's word in the table clears SVALID; MOD and SEED are stored only while LOCK = 0, where SVALID = 0. -/
theorem tableMatchesConst_storeReg {r : Reg} (w : Word) {s : State} (hr : writeAccess r = .rwb ∨ s.lock = false)
    (h : s.TableMatchesConst) : (storeReg r w s).TableMatchesConst := by
  have hunlocked (hl : s.lock = false) (hv : s.svalid = true) : False := by
    obtain ⟨hlock, -⟩ := h hv
    cases hl.symm.trans hlock
  cases r with
  | mod | seed => exact fun hv => (hunlocked (hr.resolve_left nofun) hv).elim
  | sbox k => exact nofun
  | _ => exact h

/-! ### The metric registers (10_state.md R34; 44_metrics.md R120) -/

section
variable {s : State} (h : s.MetricsInRange)
include h

theorem metricsInRange_writeBij : (writeBij s).MetricsInRange := by
  have hbij : (writeBij s).metBij.toNat ≤ 256 := by
    rw [writeBij_metBij, toNat_ofNat_of_lt ((metricBij_le s.t).trans_lt (by decide))]
    exact metricBij_le s.t
  obtain ⟨-, hnl, hsac, hdu, hlb, hdeg, hfp⟩ := h
  cases s
  exact ⟨hbij, hnl, hsac, hdu, hlb, hdeg, hfp⟩

theorem metricsInRange_writeNl : (writeNl s).MetricsInRange := by
  have hnl : (writeNl s).metNl.toNat ≤ 128 := by
    have hfit := toNat_ofInt_metricNl s.t
    have hle := metricNl_le s.t
    rw [writeNl_metNl]
    omega
  obtain ⟨hbij, -, hsac, hdu, hlb, hdeg, hfp⟩ := h
  cases s
  exact ⟨hbij, hnl, hsac, hdu, hlb, hdeg, hfp⟩

theorem metricsInRange_writeSac : (writeSac s).MetricsInRange := by
  have hsac : (writeSac s).metSac.toNat ≤ 16384 := by
    rw [writeSac_metSac, toNat_ofNat_of_lt ((metricSac_le s.t).trans_lt (by decide))]
    exact metricSac_le s.t
  obtain ⟨hbij, hnl, -, hdu, hlb, hdeg, hfp⟩ := h
  cases s
  exact ⟨hbij, hnl, hsac, hdu, hlb, hdeg, hfp⟩

theorem metricsInRange_writeDu : (writeDu s).MetricsInRange := by
  have hdu : (writeDu s).metDu.toNat ≤ 256 ∧ (writeDu s).metDu.toNat % 2 = 0 := by
    rw [writeDu_metDu, toNat_ofNat_of_lt ((metricDu_le s.t).trans_lt (by decide))]
    exact ⟨metricDu_le s.t, metricDu_mod_two s.t⟩
  obtain ⟨hbij, hnl, hsac, -, hlb, hdeg, hfp⟩ := h
  cases s
  exact ⟨hbij, hnl, hsac, hdu, hlb, hdeg, hfp⟩

theorem metricsInRange_writeLb : (writeLb s).MetricsInRange := by
  have hlb : (writeLb s).metLb.toNat ≤ 128 := by
    rw [writeLb_metLb, toNat_ofNat_of_lt ((metricLb_le s.t).trans_lt (by decide))]
    exact metricLb_le s.t
  obtain ⟨hbij, hnl, hsac, hdu, -, hdeg, hfp⟩ := h
  cases s
  exact ⟨hbij, hnl, hsac, hdu, hlb, hdeg, hfp⟩

theorem metricsInRange_writeDeg : (writeDeg s).MetricsInRange := by
  have hdeg : (writeDeg s).metDeg.toNat ≤ 8 := by
    rw [writeDeg_metDeg, toNat_ofNat_of_lt ((metricDeg_le s.t).trans_lt (by decide))]
    exact metricDeg_le s.t
  obtain ⟨hbij, hnl, hsac, hdu, hlb, -, hfp⟩ := h
  cases s
  exact ⟨hbij, hnl, hsac, hdu, hlb, hdeg, hfp⟩

theorem metricsInRange_writeFp : (writeFp s).MetricsInRange := by
  have hfp : (writeFp s).metFp.toNat ≤ 256 := by
    rw [writeFp_metFp, toNat_ofNat_of_lt ((metricFp_le s.t).trans_lt (by decide))]
    exact metricFp_le s.t
  obtain ⟨hbij, hnl, hsac, hdu, hlb, hdeg, -⟩ := h
  cases s
  exact ⟨hbij, hnl, hsac, hdu, hlb, hdeg, hfp⟩

theorem metricsInRange_writeRes0Word (w : Word) : (writeRes0Word w s).MetricsInRange := h

end

/-- A body leaves the metric registers, or writes narrowed metrics, which are in their ranges. -/
theorem metricsInRange_bodyOf (i : Instr) {s : State} (h : s.MetricsInRange) : (bodyOf i s).MetricsInRange := by
  cases i with
  | mbij => exact metricsInRange_writeRes0Word (metricsInRange_writeBij h) _
  | mnl => exact metricsInRange_writeRes0Word (metricsInRange_writeNl h) _
  | msac => exact metricsInRange_writeRes0Word (metricsInRange_writeSac h) _
  | mdu => exact metricsInRange_writeRes0Word (metricsInRange_writeDu h) _
  | mlb => exact metricsInRange_writeRes0Word (metricsInRange_writeLb h) _
  | mdeg => exact metricsInRange_writeRes0Word (metricsInRange_writeDeg h) _
  | mfp => exact metricsInRange_writeRes0Word (metricsInRange_writeFp h) _
  | mall =>
    exact metricsInRange_writeFp (metricsInRange_writeDeg (metricsInRange_writeLb (metricsInRange_writeDu
      (metricsInRange_writeSac (metricsInRange_writeNl (metricsInRange_writeBij h))))))
  | ginv => obtain ⟨v, he | he⟩ := bodyOf_ginv_cases s <;> rw [he] <;> exact h
  | ssearch => obtain ⟨c, he⟩ | he := bodyOf_ssearch_cases s <;> rw [he] <;> exact h
  | mixchk => rw [bodyOf_mixchk]; exact h
  | _ => exact h

theorem metricsInRange_completion {s t : State} (hb : s.busy = true) (ht : engineTurn s = .next t)
    (h : s.MetricsInRange) : t.MetricsInRange := by
  obtain ⟨c, -, rfl⟩ | ⟨i, rfl⟩ := engineTurn_of_busy hb ht
  · exact h
  · exact metricsInRange_bodyOf i h

theorem kept_metricsInRange : Kept State.MetricsInRange where
  modelSide _ _ _ _ _ h := h
  sticky _ _ _ _ h := h
  acknowledge _ h := h
  accept _ _ _ _ h := h
  storeReg r _ _ _ _ h := by cases r <;> exact h
  resetBlock _ := by
    have hreset : State.reset.MetricsInRange := by decide
    exact hreset
  completion _ _ hb ht h := metricsInRange_completion hb ht h

/-! ### The invariant -/

/-- The operations keep the invariant. SVALID's meaning needs the flags' relations: a pending command has LOCK = 1. -/
theorem kept_inv : Kept State.Inv where
  modelSide _ _ _ _ _ h := h
  sticky _ _ _ _ h := h
  acknowledge s := fun ⟨hf, ht, hm⟩ => ⟨kept_flagsConsistent.acknowledge s hf, ht, hm⟩
  accept w s hh hb := fun ⟨hf, ht, hm⟩ => ⟨kept_flagsConsistent.accept w s hh hb hf, fun hv => ⟨rfl, (ht hv).2⟩, hm⟩
  storeReg r w s hb hr := fun ⟨hf, ht, hm⟩ =>
    ⟨kept_flagsConsistent.storeReg r w s hb hr hf, tableMatchesConst_storeReg w hr ht,
      kept_metricsInRange.storeReg r w s hb hr hm⟩
  resetBlock s := ⟨kept_flagsConsistent.resetBlock s, nofun, kept_metricsInRange.resetBlock s⟩
  completion _ _ hb hst := fun ⟨hf, ht, hm⟩ =>
    ⟨flagsConsistent_completion hb hst hf, tableMatchesConst_completion hb hst hf ht,
      metricsInRange_completion hb hst hm⟩

/-- Settles O57: the operations keep the three parts of the invariant. -/
theorem stepKeepsInvariant : Obligations.StepKeepsInvariant := by
  unfold Obligations.StepKeepsInvariant
  exact fun s s' hs hst => kept_inv.step hs hst

/-- Settles O58: the reset state differs from a reset block in the table and the model's own fields alone, and SVALID is 0. -/
theorem resetHasInvariant : Obligations.ResetHasInvariant := by
  unfold Obligations.ResetHasInvariant
  obtain ⟨hf, -, hm⟩ := kept_inv.resetBlock State.reset
  exact ⟨hf, nofun, hm⟩

end Sys2Proof.Machine

end
